-- ==== Sys2Proof/Word.lean ====
section
/-! DEFINITION. The widths of the SMC block's words (spec/00_scope.md R10, spec/30_encoding.md R70, R72). -/

namespace Sys2Proof

/-- A u8: an operand field, a request code, STATUS, ERRSEEN, one payload byte. -/
abbrev Byte := BitVec 8

/-- A u16: the `index`, `value` and `expectedLength` of a control request, a meter sample. -/
abbrev Half := BitVec 16

/-- A command word `C` (R70). -/
abbrev Word := BitVec 32

/-- A data word `D`, a result word `RES`: the 64 bits of a binary64 value (R72, R78). -/
abbrev Dword := BitVec 64

end Sys2Proof
end

