-- ==== Sys2Proof/Machine/Binary64.lean ====
section
/-! DEFINITION. Binary64 words as exact numbers (spec/00_scope.md R11, spec/30_encoding.md R72): the value
of a word, the rounding rule of the codecs, and the rounding of a positive number to a word. -/

namespace Sys2Proof.Machine

/-- A value in the extended reals that a binary64 word can have: `finite n` is n / 2^1074, and every finite
binary64 value is such a number. -/
inductive ExactDb where
  | negInf
  | finite (n : Int)
  | posInf
  deriving DecidableEq, Repr

/-- One dB in units of 2^-1074: the denominator of `ExactDb.finite`. -/
def dbUnit : Nat := 2 ^ 1074

/-- D[63], the sign. -/
def signOf (d : Dword) : Bool := d.getLsbD 63
/-- D[62:52], the biased exponent. -/
def exponentOf (d : Dword) : Nat := (d.extractLsb' 52 11).toNat
/-- D[51:0], the fraction. -/
def fractionOf (d : Dword) : Nat := (d.extractLsb' 0 52).toNat

/-- Is the word a NaN (any sign, any payload)? -/
def isNaN (d : Dword) : Bool := exponentOf d == 2047 && fractionOf d != 0

/-- |val(d)| in units of 2^-1074, for a finite word. -/
def magnitudeOf (d : Dword) : Nat :=
  if exponentOf d = 0 then fractionOf d else (2 ^ 52 + fractionOf d) * 2 ^ (exponentOf d - 1)

/-- val(d), and `none` for a NaN (R11). -/
def exactValue (d : Dword) : Option ExactDb :=
  if isNaN d then none
  else if exponentOf d = 2047 then some (if signOf d then .negInf else .posInf)
  else some (.finite (if signOf d then -(magnitudeOf d : Int) else magnitudeOf d))

/-- round_half_away(n / den) = sign · floor(|n / den| + 1/2) (R11). -/
def roundHalfAway (n : Int) (den : Nat) : Int :=
  n.sign * ((2 * n.natAbs + den) / (2 * den) : Nat)

/-- The significand of `q` rounded to 53 bits, to nearest with ties to even, where `drop` bits fall off. -/
def roundedSignificand (q drop : Nat) : Nat :=
  let kept := q >>> drop
  let rest := q % 2 ^ drop
  if 2 ^ (drop - 1) < rest ∨ (rest = 2 ^ (drop - 1) ∧ kept % 2 = 1) then kept + 1 else kept

/-- The bits below the sign of the binary64 value nearest q / 2^k, ties to even, for a `q` of at least 54
bits and a result in the normal range. A significand that rounds up to 2^53 carries into the exponent. -/
def magnitudeBits (q k : Nat) : Nat :=
  let drop := Nat.log2 q - 52
  (Nat.log2 q + 1023 - k) * 2 ^ 52 + (roundedSignificand q drop - 2 ^ 52)

end Sys2Proof.Machine
end

