-- ==== Sys2Proof/Machine/Codec.lean ====
section
/-! DEFINITION. The three codec functions (spec/40_codecs.md R100-R113), pure and exact. -/

namespace Sys2Proof.Machine

/-! ## dB operands -/

/-- A dB operand that passed the NaN check: the word the command gave, which is what the shadow registers
store, and its exact value, which is what the codecs take (R100, spec/10_state.md R24). -/
structure DbOperand where
  bits : Dword
  value : ExactDb
  deriving DecidableEq, Repr

/-- The operand a data word is, and `none` for a NaN (spec/60_exceptions.md R214). -/
def dbOperand? (d : Dword) : Option DbOperand := (exactValue d).map (DbOperand.mk d)

/-! ## Attenuation and gain -/

/-- attenuationToWire, its payload `(p0, p1)` (R102). The argument of the rounding is
65536.5 + 256·x = (131073·u + 512·n) / 2u for x = n / u. -/
def attenuationToWire : ExactDb → Byte × Byte
  | .negInf => (0x00, 0x80)
  | .posInf => (0x00, 0x00)
  | .finite n =>
    if n ≤ -128 * (dbUnit : Int) then (0x00, 0x80)
    else if 0 ≤ n then (0x00, 0x00)
    else
      let w := roundHalfAway (131073 * (dbUnit : Int) + 512 * n) (2 * dbUnit)
      (BitVec.ofInt 8 w, BitVec.ofInt 8 (w / 256))

/-- The clamp of a rounded gain to -128..6 (R106). -/
def clampGain (r : Int) : Int := if r ≤ -128 then -128 else if r > 6 then 6 else r

/-- gainToWire, its payload `(0x00, v mod 256)` (R105, R106). -/
def gainToWire : ExactDb → Byte × Byte
  | .negInf => (0x00, BitVec.ofInt 8 (-128))
  | .posInf => (0x00, BitVec.ofInt 8 6)
  | .finite n => (0x00, BitVec.ofInt 8 (clampGain (roundHalfAway n dbUnit)))

/-- The 16-bit little-endian word p1:p0 of a payload (R101). -/
def payloadWord (p : Byte × Byte) : Half := p.2 ++ p.1

/-- RES of CVTATT and CVTGAIN: the payload's word in the low 16 bits (spec/30_encoding.md R78). -/
def payloadRes (p : Byte × Byte) : Dword := (payloadWord p).setWidth 64

/-! ## The meter table (R109-R113, log 7)

`METER_LUT[m]` for m ≥ 1 is 20·log10(m / 65536) rounded to the nearest binary64. The model computes it as
-(20·(16 - log2 m) / log2 10) from binary logarithms with 128 fraction bits. -/

/-- Fraction bits of the logarithms. -/
def logBits : Nat := 128
/-- Fraction bits of the number whose logarithm is being taken. -/
def logPrecision : Nat := 160

/-- The next `n` bits of log2 x, for x in [1, 2) with `logPrecision` fraction bits, appended to `acc`: square
x, and the next bit says whether the square reaches 2. -/
def logFraction : Nat → Nat → Nat → Nat
  | 0, _, acc => acc
  | n + 1, x, acc =>
    let sq := (x * x) >>> logPrecision
    if sq < 2 ^ (logPrecision + 1) then logFraction n sq (2 * acc)
    else logFraction n (sq >>> 1) (2 * acc + 1)

/-- log2 m in units of 2^-128, rounded down, for m ≥ 1. -/
def logTwo (m : Nat) : Nat :=
  Nat.log2 m * 2 ^ logBits + logFraction logBits (m <<< (logPrecision - Nat.log2 m)) 0

/-- -20·log10(m / 65536) in units of 2^-128, for 1 ≤ m ≤ 65535. -/
def meterLevel (m : Nat) : Nat :=
  ((20 * (16 * 2 ^ logBits - logTwo m)) <<< logBits) / logTwo 10

/-- METER_LUT[m] (R112). -/
def meterLut (m : Nat) : Dword :=
  if m = 0 then 0xFFF0000000000000
  else BitVec.ofNat 64 (2 ^ 63 + magnitudeBits (meterLevel m) logBits)

/-- meterSampleToDb (R113). -/
def meterSampleToDb (m : Half) : Dword := meterLut m.toNat

end Sys2Proof.Machine
end

