-- ==== Sys2Proof/Syntax.lean ====
section
/-! DEFINITION. The names and the commands of the SMC block as data: the members of the four operand
sets (spec/10_state.md R21-R23), the words at the two ports (spec/30_encoding.md R70, R79), and one
constructor of `Instr` for every row of spec/opcode_table.json. -/

namespace Sys2Proof

/-- The 25 members of SignalSource (R21), in the order of their tags. -/
inductive SignalSource where
  | off
  | daw1 | daw2 | daw3 | daw4 | daw5 | daw6
  | analog1 | analog2 | analog3 | analog4 | analog5 | analog6 | analog7 | analog8
  | spdif1 | spdif2
  | adat1 | adat2 | adat3 | adat4 | adat5 | adat6 | adat7 | adat8
  deriving DecidableEq, Repr

/-- The matrix-mixer outputs M1 to M6, which only the router takes as sources (R22, R141). -/
inductive MixOut where
  | m1 | m2 | m3 | m4 | m5 | m6
  deriving DecidableEq, Repr

/-- The 31 members of MixBus (R22): a SignalSource, or a matrix-mixer output. -/
inductive MixBus where
  | source (src : SignalSource)
  | mix (out : MixOut)
  deriving DecidableEq, Repr

/-- The position of an impedance switch (R23). -/
inductive ImpMode where
  | lineIn | instrument
  deriving DecidableEq, Repr

/-- The clock source of the device (R23). -/
inductive Clock where
  | internal | spdif | adat
  deriving DecidableEq, Repr

/-- One command as the host presents it (R70): the command word, and the data word. A command whose
opcode takes no data word has none; its `data` is then not read (log 14). -/
structure Command where
  word : Word
  data : Dword
  deriving DecidableEq, Repr

/-- A control request as the request port carries it (R79): what the block writes to the device's control
space, or asks to read from it. -/
inductive ControlRequest where
  | out (code : Byte) (value index : Half) (payload : List Byte)
  | inp (code : Byte) (value index : Half) (expectedLength : Half)
  deriving DecidableEq, Repr

/-- A payload byte of a request order as the tables of R51 and R79 write it: a number, or the code that one of the
open tables gives to a member (`IMP_CODE(mode)` and the like), named by the member. So no order can hold a code
byte that its table does not hold, whatever the tables are (log 10). -/
inductive PayloadByte where
  | byte (x : Byte)
  | impCode (mode : ImpMode)
  | clkCode (clock : Clock)
  | srcCode (src : SignalSource)
  | busByte (bus : MixBus)
  deriving DecidableEq, Repr

/-- A control request without its request code: all that says which kind of R79 it is, whatever SRQ is
(R52). The block adds the code of the kind when it emits the request. -/
inductive RequestOrder where
  | out (value index : Half) (payload : List PayloadByte)
  | inp (value index : Half) (expectedLength : Half)
  deriving DecidableEq, Repr

/-- A kind of request with the operands its `value` holds (R79, R80): `c` is the channel, `k` the output bus,
`i` the matrix input, `b` the matrix bus, `d` the destination. The operands are the fields as they stand on the
wire, within their domains or not. -/
inductive RequestKind where
  | imp (c : Byte)
  | clk
  | mute (k : Byte)
  | att (k : Byte)
  | src (i : Byte)
  | gain (i : BitVec 5) (b : BitVec 3)
  | route (d : Byte)
  | save
  | mtrIn
  | mtrDaw
  | mtrMix
  deriving DecidableEq, Repr

/-- What can stand at one of the block's two ports to be run: a command at the command port, or one
request by itself at the request port (log 8). -/
inductive PortWord where
  | command (cmd : Command)
  | order (o : RequestOrder)
  deriving DecidableEq, Repr

/-- The instructions: one constructor for each row of spec/opcode_table.json. The operands `a` and `b` of
a command are its fields A and B as they stand (R73: any byte is a word of the command; an operand outside
its domain is a RANGE_ERR, not an illegal word, R76). The operands of a request kind are the variable
fields of its `value` and what its payload is made from: a member of an open code table, or bytes (R79). -/
inductive Instr where
  /-- SETIMP: A = channel, B = ImpMode tag (R130). -/
  | setimp (a b : Byte)
  /-- SETCLK: B = Clock tag (R132). -/
  | setclk (b : Byte)
  /-- SETMUTE: A = bus, B = mute bit (R134). -/
  | setmute (a b : Byte)
  /-- SETATT: A = bus, D = dB (R136). -/
  | setatt (a : Byte) (d : Dword)
  /-- SETSRC: A = matrix input, B = SignalSource tag (R140). -/
  | setsrc (a b : Byte)
  /-- SETGAIN: A = matrix input, B = matrix bus, D = dB (R142). -/
  | setgain (a b : Byte) (d : Dword)
  /-- SETROUTE: A = destination, B = MixBus tag (R144). -/
  | setroute (a b : Byte)
  /-- SAVE (R146). -/
  | save
  /-- FACTORY (R172). -/
  | factory
  /-- ZERO (R176). -/
  | zero
  /-- METERPOLL (R192). -/
  | meterpoll
  /-- CVTATT: D = dB (R104). -/
  | cvtatt (d : Dword)
  /-- CVTGAIN: D = dB (R108). -/
  | cvtgain (d : Dword)
  /-- CVTMETER: A = high byte, B = low byte of the sample (R114). -/
  | cvtmeter (a b : Byte)
  /-- GET MSRC: A = matrix input (R150, selector 0). -/
  | getMsrc (a : Byte)
  /-- GET MGAIN: A = matrix input, B = matrix bus (R150, selector 1). -/
  | getMgain (a b : Byte)
  /-- GET ROUTE: A = destination (R150, selector 2). -/
  | getRoute (a : Byte)
  /-- GET MUTE: A = bus (R150, selector 3). -/
  | getMute (a : Byte)
  /-- GET ATT: A = bus (R150, selector 4). -/
  | getAtt (a : Byte)
  /-- GET IMP: A = channel (R150, selector 5). -/
  | getImp (a : Byte)
  /-- GET CLK (R150, selector 6). -/
  | getClk
  /-- W_IMP: `c` is value[7:0], the channel + 1; the payload is `[IMP_CODE(mode), 0x00]` (R79). -/
  | wImp (c : Byte) (mode : ImpMode)
  /-- W_CLK: the payload is `[CLK_CODE(clock)]` (R79). -/
  | wClk (clock : Clock)
  /-- W_MUTE: `k` is value[7:0], `m` the first payload byte (R79). -/
  | wMute (k m : Byte)
  /-- W_ATT: `k` is value[7:0], `p0` and `p1` the payload (R79). -/
  | wAtt (k p0 p1 : Byte)
  /-- W_SRC: `i` is value[7:0]; the payload is `[SRC_CODE(src), 0x00]` (R79). -/
  | wSrc (i : Byte) (src : SignalSource)
  /-- W_GAIN: `i` is value[7:3], `b` is value[2:0], `p0` and `p1` the payload (R79). -/
  | wGain (i : BitVec 5) (b : BitVec 3) (p0 p1 : Byte)
  /-- W_ROUTE: `d` is value[7:0]; the payload is `[bus byte, 0x00]` (R79). -/
  | wRoute (d : Byte) (bus : MixBus)
  /-- W_SAVE (R79). -/
  | wSave
  /-- W_MTR_IN: the read of the input meter block (R79, R190). -/
  | wMtrIn
  /-- W_MTR_DAW: the read of the DAW meter block (R79, R190). -/
  | wMtrDaw
  /-- W_MTR_MIX: the read of the mixer meter block (R79, R190). -/
  | wMtrMix
  deriving DecidableEq, Repr

end Sys2Proof
end

