-- ==== Sys2Proof/Config.lean ====
section
/-! DEFINITION. What no rule fixes: the code parameters of spec/00_scope.md R8 and the host's answers. Each
is an opaque constant, so that nothing can be proved of a value the spec leaves open. The code tables read
off them, in Machine/Operands.lean, have by construction what R8 fixes of each (log 5). -/

namespace Sys2Proof

/-- The host's answer to a request (spec/20_memory.md R55): `Ok` to an OUT request and `Bytes(s)` to an IN
request are both `success`; an OUT request does not look at the bytes (log 18). -/
inductive Answer where
  | transportError
  | success (bytes : List Byte)
  deriving DecidableEq, Repr, Inhabited

/-- Is the answer `TransportError`? -/
def Answer.isError : Answer → Bool
  | .transportError => true
  | .success _ => false

/-- A request emitted, with the answer it got (R55). -/
structure Exchange where
  request : ControlRequest
  answer : Answer
  deriving DecidableEq, Repr

namespace Config

/-- SRQ, the request code of every set request but Save (R8, spec/92_eei_decisions.md D7): open. -/
opaque setRequestCode : Byte

/-- An unknown permutation of the bytes, from which the codes of the 31 buses are read (D5): open. -/
opaque busPermutation : Equiv.Perm Byte

/-- An unknown permutation of the bytes, from which IMP_CODE is read (D6): open. -/
opaque impPermutation : Equiv.Perm Byte

/-- An unknown permutation of the bytes, from which CLK_CODE is read (D6): open. -/
opaque clkPermutation : Equiv.Perm Byte

/-- The host's answer to a request where the run does not list it: any answer at all, which may depend on
the request and on every request and answer before it (spec/93_implementation_defined.md I5, log 1): open. -/
opaque hostAnswer : List Exchange → ControlRequest → Answer

end Config

end Sys2Proof
end

