-- ==== Sys2Proof/Machine/State.lean ====
section
/-! DEFINITION. The state of the SMC block (spec/10_state.md R20), what stands at its ports, the reasons a
step can stop, and the state after reset (spec/70_reset_and_hazards.md R240). -/

namespace Sys2Proof.Machine

/-- The status codes (spec/60_exceptions.md R210). -/
inductive Status where
  | ok | illegalCmd | rangeErr | nanErr | unsetErr | formatErr | transportErr
  deriving DecidableEq, Repr

/-- What the result port holds (spec/30_encoding.md R78): nothing, the word RES, or the vector SNAP. -/
inductive Result where
  | empty
  | word (res : Dword)
  | snapshot (snap : Vector Dword 32)
  deriving DecidableEq, Repr

/-- What the host presents between commands (spec/60_exceptions.md R236). -/
inductive HostEvent where
  | command (cmd : Command)
  | reset
  deriving DecidableEq, Repr

/-- What the host does at a request: it answers, it never answers (R237), or it asserts reset while the
command waits (spec/70_reset_and_hazards.md R241). -/
inductive Reply where
  | answer (a : Answer)
  | silence
  | reset
  deriving DecidableEq, Repr

/-- Why a command does not come to its end: the host never answers a request, or resets the block while a
request waits for its answer. -/
inductive Stop where
  | silence
  | reset
  deriving DecidableEq, Repr

/-- The reasons a step stops with a fault. -/
inductive Fault where
  /-- The host never answers a request, and the block waits for ever (spec/60_exceptions.md R237,
  spec/93_implementation_defined.md I12: a model has no next state). Raised by every command or request
  order that emits a request which meets `Reply.silence`. SAFE: the block does nothing either. -/
  | unanswered
  deriving DecidableEq, Repr

/-- The reasons a step is refused. -/
inductive Refusal where
  /-- An instruction whose meaning is not written. No arm of `exec` answers it. SAFE. -/
  | notModelled (mnemonic : String)
  /-- The host asserts reset inside a command, outside the spec (spec/70_reset_and_hazards.md R241). Raised
  by every command or request order that emits a request which meets `Reply.reset`. SAFE. -/
  | resetInsideCommand
  /-- A request order whose fields the address map of spec/20_memory.md R51 does not hold, so that the block
  never emits it. Raised by the request kinds W_*. SAFE. -/
  | outsideAddressMap
  /-- A request order of no kind of spec/30_encoding.md R79. Raised by `step`. SAFE. -/
  | noSuchRequest
  deriving DecidableEq, Repr

/-- The block's state. The first nine fields are the tuple of spec/10_state.md R20; the last five are the
model's own and hold what stands at the ports (log 1, 4, 8, 12, 13). -/
structure State where
  /-- MSRC[i]: the source of matrix input i (R25). -/
  msrc : Vector SignalSource 18
  /-- MGAIN[i][b]: the gain of cell (i, b), the binary64 word as given (R26). -/
  mgain : Vector (Vector Dword 6) 18
  /-- ROUTE[d]: the source of router destination d (R27). -/
  route : Vector MixBus 6
  /-- MUTE[k]: output bus k is muted (R28). -/
  mute : Vector Bool 5
  /-- ATT[k]: the attenuation of output bus k, the binary64 word as given (R29). -/
  att : Vector Dword 5
  /-- IMP[c] with IMP_VALID[c]: `none` is IMP_VALID[c] = 0 and no value (R30, log 11). -/
  imp : Vector (Option ImpMode) 2
  /-- CLK with CLK_VALID: `none` is CLK_VALID = 0 and no value (R30, log 11). -/
  clk : Option Clock
  /-- STATUS (R32). -/
  status : Byte
  /-- ERRSEEN (R33). -/
  errseen : Byte
  /-- The result port after the last command (spec/30_encoding.md R78). -/
  result : Result
  /-- What the host has presented and the block has not taken, oldest first. -/
  events : List HostEvent
  /-- What the host does at the next requests; beyond the list its answers are free. -/
  replies : List Reply
  /-- Every request emitted so far with its answer, oldest first. -/
  trace : List Exchange
  /-- One request to be emitted by itself, before anything else. -/
  order : Option RequestOrder
  deriving DecidableEq, Repr

/-- IMP_VALID[c] (R30). -/
def State.impValid (s : State) (c : Fin 2) : Bool := (s.imp.get c).isSome

/-- CLK_VALID (R30). -/
def State.clkValid (s : State) : Bool := s.clk.isSome

/-- The machine after reset: the values of spec/70_reset_and_hazards.md R240, and nothing at the ports. -/
def State.reset : State where
  msrc := Vector.replicate 18 .off
  mgain := Vector.replicate 18 (Vector.replicate 6 0xFFF0000000000000)
  route := Vector.replicate 6 (.source .off)
  mute := Vector.replicate 5 false
  att := Vector.replicate 5 0x0000000000000000
  imp := Vector.replicate 2 none
  clk := none
  status := 0
  errseen := 0x00
  result := .empty
  events := []
  replies := []
  trace := []
  order := none

end Sys2Proof.Machine
end

