-- ==== Sys2Proof/Machine/Flags.lean ====
section
/-! DEFINITION. STATUS and ERRSEEN, the only flags the block has (spec/10_state.md R32-R34). -/

namespace Sys2Proof.Machine

/-- The number of a status code (spec/60_exceptions.md R210). -/
def statusCode : Status → Nat
  | .ok => 0
  | .illegalCmd => 1
  | .rangeErr => 2
  | .nanErr => 3
  | .unsetErr => 4
  | .formatErr => 5
  | .transportErr => 6

/-- STATUS after a command that ends with this code (R32). -/
def statusByte (e : Status) : Byte := BitVec.ofNat 8 (statusCode e)

/-- The bit of ERRSEEN that a code sets (R33). -/
def errorBit (e : Status) : Byte := 1#8 <<< statusCode e

/-- ERRSEEN after an error: sticky (R33). -/
def errseenAfter (old : Byte) (e : Status) : Byte := old ||| errorBit e

end Sys2Proof.Machine
end

