-- ==== Sys2Proof/Machine/Operands.lean ====
section
/-! DEFINITION. Operands: the tags of the four member sets (spec/10_state.md R21-R23), what an operand byte
names and when it is outside its domain (spec/30_encoding.md R73, spec/60_exceptions.md R213), and the
bytes the members have on the wire (spec/00_scope.md R8). -/

namespace Sys2Proof.Machine

/-! ## Tags -/

/-- The SignalSource members in the order of their tags (R21). -/
def sourcesInOrder : List SignalSource :=
  [.off, .daw1, .daw2, .daw3, .daw4, .daw5, .daw6,
   .analog1, .analog2, .analog3, .analog4, .analog5, .analog6, .analog7, .analog8,
   .spdif1, .spdif2, .adat1, .adat2, .adat3, .adat4, .adat5, .adat6, .adat7, .adat8]

/-- The MixBus members in the order of their tags: the sources, then M1 to M6 (R22). -/
def busesInOrder : List MixBus :=
  sourcesInOrder.map .source ++ [.mix .m1, .mix .m2, .mix .m3, .mix .m4, .mix .m5, .mix .m6]

/-- The ImpMode members in the order of their tags (R23). -/
def impModesInOrder : List ImpMode := [.lineIn, .instrument]

/-- The Clock members in the order of their tags (R23). -/
def clocksInOrder : List Clock := [.internal, .spdif, .adat]

/-- The tag of a SignalSource (R21). -/
def sourceTag (s : SignalSource) : Nat := sourcesInOrder.idxOf s
/-- The tag of a MixBus (R22). -/
def busTag (b : MixBus) : Nat := busesInOrder.idxOf b
/-- The tag of an ImpMode (R23). -/
def impModeTag (m : ImpMode) : Nat := impModesInOrder.idxOf m
/-- The tag of a Clock (R23). -/
def clockTag (c : Clock) : Nat := clocksInOrder.idxOf c

/-! ## What an operand byte names: `none` outside the domain (R213) -/

/-- An index below `n`. -/
def below? (n : Nat) (x : Byte) : Option (Fin n) :=
  if h : x.toNat < n then some ⟨x.toNat, h⟩ else none

/-- A channel: 0 or 1. -/
def channel? (x : Byte) : Option (Fin 2) := below? 2 x
/-- An output bus: 0 to 4. -/
def outputBus? (x : Byte) : Option (Fin 5) := below? 5 x
/-- A matrix input: 0 to 17. -/
def matrixInput? (x : Byte) : Option (Fin 18) := below? 18 x
/-- A matrix bus: 0 to 5. -/
def matrixBus? (x : Byte) : Option (Fin 6) := below? 6 x
/-- A router destination: 0 to 5. -/
def destination? (x : Byte) : Option (Fin 6) := below? 6 x
/-- A SignalSource tag: 0 to 24. -/
def source? (x : Byte) : Option SignalSource := sourcesInOrder[x.toNat]?
/-- A MixBus tag: 0 to 30. -/
def mixBus? (x : Byte) : Option MixBus := busesInOrder[x.toNat]?
/-- An ImpMode tag: 0 or 1. -/
def impMode? (x : Byte) : Option ImpMode := impModesInOrder[x.toNat]?
/-- A Clock tag: 0 to 2. -/
def clock? (x : Byte) : Option Clock := clocksInOrder[x.toNat]?
/-- A mute bit: 0 or 1. -/
def muteBit? (x : Byte) : Option Bool := [false, true][x.toNat]?

/-- A mute bit as the byte of its payload (spec/41_topology_encoder.md R134). -/
def muteByte (m : Bool) : Byte := if m then 1 else 0

/-! ## Wire bytes (spec/00_scope.md R8, log 5) -/

/-- The byte code of the bus with this MixBus tag: 0xFF for OFF, and for the others an unknown byte each,
all different. The swap gives OFF's place in the permutation to 0xFF. -/
def busCode (tag : Byte) : Byte :=
  if tag = 0 then 0xFF
  else Equiv.swap (Config.busPermutation 0) 0xFF (Config.busPermutation tag)

/-- SRC_CODE. -/
def srcCode (s : SignalSource) : Byte := busCode (BitVec.ofNat 8 (sourceTag s))

/-- MIX_CODE. -/
def mixCode (m : MixOut) : Byte := busCode (BitVec.ofNat 8 (busTag (.mix m)))

/-- The wire byte of a MixBus: its SRC_CODE or its MIX_CODE (spec/10_state.md R22). -/
def busByte : MixBus → Byte
  | .source s => srcCode s
  | .mix m => mixCode m

/-- IMP_CODE. -/
def impCode (m : ImpMode) : Byte := Config.impPermutation (BitVec.ofNat 8 (impModeTag m))

/-- CLK_CODE. -/
def clkCode (c : Clock) : Byte := Config.clkPermutation (BitVec.ofNat 8 (clockTag c))

end Sys2Proof.Machine
end

