-- ==== Sys2Proof/Machine/Ops.lean ====
section
/-! DEFINITION. The operations every command is built from: how a command ends (spec/60_exceptions.md
R211), how a request goes out and is answered (spec/20_memory.md R55-R57), the commit and the request of
each set command (spec/41_topology_encoder.md R129-R144), and reset. -/

namespace Sys2Proof.Machine

/-- What a step answers. -/
abbrev StepOutcome := Host.Outcome State Fault Refusal

/-! ## How a command ends -/

/-- `raise E`: the one way an error ends a command, and all that taking an exception is on this block
(R211, R219). What the command did before stays; no result is delivered. -/
def raise (e : Status) (s : State) : State :=
  { s with status := statusByte e, errseen := errseenAfter s.errseen e, result := .empty }

/-- `finish(r)`: the command ends with OK and its result (R211). There is nothing to return from (R220). -/
def finish (r : Result) (s : State) : State :=
  { s with status := statusByte .ok, result := r }

/-- Go on with what an operand names, or end with `e` if it names nothing. -/
def require {α : Type} (x : Option α) (e : Status) (s : State) (k : α → StepOutcome) : StepOutcome :=
  match x with
  | some v => k v
  | none => .next (raise e s)

/-! ## Requests and answers -/

/-- The answer a request gets: the one the run lists next, else a free one (log 1). -/
def answerTo (r : ControlRequest) (s : State) : Answer :=
  match s.replies with
  | .answer a :: _ => a
  | _ => Config.hostAnswer s.trace r

/-- `Emit(req)`: the request goes out and its answer comes back; both are recorded (R55). No other part of
the state changes (R61). -/
def emit (r : ControlRequest) (s : State) : Answer × State :=
  (answerTo r s,
   { s with replies := s.replies.tail, trace := s.trace ++ [⟨r, answerTo r s⟩] })

/-- Does a command that emits up to `n` requests meet a request the host does not answer? It looks at the
replies the command will use: it stops at the first TransportError (spec/92_eei_decisions.md D18), and
beyond the list every request is answered. -/
def stopsWithin : Nat → List Reply → Option Stop
  | 0, _ => none
  | _ + 1, [] => none
  | _ + 1, .answer .transportError :: _ => none
  | n + 1, .answer (.success _) :: rest => stopsWithin n rest
  | _ + 1, .silence :: _ => some .silence
  | _ + 1, .reset :: _ => some .reset

/-- The step of a command in `s` that emits up to `n` requests and, if all it emits are answered, leaves
`done` (log 19). -/
def conduct (n : Nat) (s done : State) : StepOutcome :=
  match stopsWithin n s.replies with
  | some .silence => .fault .unanswered
  | some .reset => .refused .resetInsideCommand
  | none => .next done

/-- The end of a command whose last effect is a request. -/
def settle (x : Answer × State) : State :=
  if x.1.isError then raise .transportErr x.2 else finish .empty x.2

/-! ## The set commands from their commit stage on (R129 stages 3 and 4) -/

/-- A set command whose operands passed their checks. -/
inductive SetOp where
  | imp (c : Fin 2) (mode : ImpMode)
  | clk (clock : Clock)
  | mute (k : Fin 5) (m : Bool)
  | att (k : Fin 5) (d : DbOperand)
  | src (i : Fin 18) (source : SignalSource)
  | gain (i : Fin 18) (b : Fin 6) (d : DbOperand)
  | route (d : Fin 6) (bus : MixBus)
  deriving DecidableEq, Repr

/-- Stage 3: the shadow write of each set command. -/
def commit (op : SetOp) (s : State) : State :=
  match op with
  | .imp c mode => { s with imp := s.imp.set c (some mode) }
  | .clk clock => { s with clk := some clock }
  | .mute k m => { s with mute := s.mute.set k m }
  | .att k d => { s with att := s.att.set k d.bits }
  | .src i source => { s with msrc := s.msrc.set i source }
  | .gain i b d => { s with mgain := s.mgain.set i ((s.mgain.get i).set b d.bits) }
  | .route d bus => { s with route := s.route.set d bus }

/-- A number as a u16. -/
def half (n : Nat) : Half := BitVec.ofNat 16 n

/-- A two-byte payload. -/
def pairPayload (p : Byte × Byte) : List Byte := [p.1, p.2]

/-- The request of each set command, with the address formulas of R130-R144. -/
def requestOf : SetOp → ControlRequest
  | .imp c mode => .out Config.setRequestCode (0x0901#16 + half c) 0x0100 [impCode mode, 0x00]
  | .clk clock => .out Config.setRequestCode 0x0100 0x2800 [clkCode clock]
  | .mute k m => .out Config.setRequestCode (0x0100#16 + half k) 0x0a00 [muteByte m, 0x00]
  | .att k d =>
    .out Config.setRequestCode (0x0200#16 + half k) 0x0a00 (pairPayload (attenuationToWire d.value))
  | .src i source => .out Config.setRequestCode (0x0600#16 + half i) 0x3200 [srcCode source, 0x00]
  | .gain i b d =>
    .out Config.setRequestCode (0x0100#16 + ((half i <<< 3) + (half b &&& 0x07#16))) 0x3c00
      (pairPayload (gainToWire d.value))
  | .route d bus => .out Config.setRequestCode (half d) 0x3300 [busByte bus, 0x00]

/-- The request of SAVE (R146): request code 0x03, one payload byte. -/
def saveRequest : ControlRequest := .out 0x03 0x005a 0x3c00 [0xa5]

/-- Stages 3 and 4 of a set command: the shadow write, then the request. -/
def perform (op : SetOp) (s : State) : Answer × State := emit (requestOf op) (commit op s)

/-- A sequence of set commands, ended at the first TransportError, whose own shadow write stays
(spec/42_bulk_programs.md R170, R171). -/
def runOps : List SetOp → State → State
  | [], s => finish .empty s
  | op :: rest, s =>
    if (perform op s).1.isError then raise .transportErr (perform op s).2
    else runOps rest (perform op s).2

/-- The step of a sequence of set commands: one for a set command, the whole program for a bulk one. -/
def conductOps (ops : List SetOp) (s : State) : StepOutcome := conduct ops.length s (runOps ops s)

/-! ## Reset -/

/-- Reset: every element of the state tuple at its reset value, and no request emitted
(spec/70_reset_and_hazards.md R240). What the host has presented and the record of the requests are not
the block's and stay (log 17). -/
def resetBlock (s : State) : State :=
  { State.reset with events := s.events, replies := s.replies, trace := s.trace, order := s.order }

end Sys2Proof.Machine
end

