-- ==== Sys2Proof/Machine/Bulk.lean ====
section
/-! DEFINITION. The bulk commands FACTORY and ZERO: fixed sequences of set commands
(spec/42_bulk_programs.md R170-R178). -/

namespace Sys2Proof.Machine

/-- The dB operand 0.0. -/
def unityDb : DbOperand := ⟨0x0000000000000000, .finite 0⟩

/-- The dB operand -200.0, the floor of R172 and R176. -/
def floorDb : DbOperand := ⟨0xC069000000000000, .finite (-200 * (dbUnit : Int))⟩

/-- FROUTE, the router sources of FACTORY (R172). -/
def factoryRoute : List MixBus :=
  [.mix .m1, .mix .m2, .mix .m1, .mix .m2, .source .off, .source .off]

/-- FSRC, the matrix sources of FACTORY (R172). -/
def factorySource : List SignalSource :=
  [.analog1, .analog2, .analog3, .analog4, .analog5, .analog6, .analog7, .analog8,
   .adat1, .adat2, .adat3, .adat4, .adat5, .adat6, .spdif1, .spdif2, .daw1, .daw2]

/-- Every index below `n`, from the lowest up (R178). -/
def indices (n : Nat) : List (Fin n) := List.finRange n

/-- One SETGAIN for each cell, input-major (R178). -/
def gainOps (gain : Fin 18 → Fin 6 → DbOperand) : List SetOp :=
  (indices 18).flatMap fun i => (indices 6).map fun b => .gain i b (gain i b)

/-- `for k in 1..4: SETMUTE k, 0` (R172, R176). -/
def unmuteOps : List SetOp := [.mute 1 false, .mute 2 false, .mute 3 false, .mute 4 false]

/-- The gain FACTORY gives cell (i, b) (R172). -/
def factoryGain (i : Fin 18) (b : Fin 6) : DbOperand := if i.val % 2 = b.val then unityDb else floorDb

/-- The 138 sub-commands of FACTORY (R172). The source's "clear assignment" request is not among them
(spec/00_scope.md R6). -/
def factoryOps : List SetOp :=
  (indices 6).map (fun d => .route d (factoryRoute.getD d (.source .off)))
    ++ (indices 18).map (fun i => .src i (factorySource.getD i .off))
    ++ gainOps factoryGain
    ++ unmuteOps
    ++ (indices 2).map (fun c => .imp c .lineIn)

/-- The 136 sub-commands of ZERO (R176). -/
def zeroOps : List SetOp :=
  gainOps (fun _ _ => floorDb)
    ++ (indices 18).map (fun i => .src i .off)
    ++ (indices 6).map (fun d => .route d (.source .off))
    ++ unmuteOps

/-- FACTORY (R172). -/
def execFactory (s : State) : StepOutcome := conductOps factoryOps s

/-- ZERO (R176). -/
def execZero (s : State) : StepOutcome := conductOps zeroOps s

end Sys2Proof.Machine
end

