-- ==== Sys2Proof/Machine/Convert.lean ====
section
/-! DEFINITION. The codec commands (spec/40_codecs.md R104, R108, R114). They write no shadow register and
emit no request. -/

namespace Sys2Proof.Machine

/-- CVTATT (R104). -/
def execCvtatt (d : Dword) (s : State) : StepOutcome :=
  require (dbOperand? d) .nanErr s fun x =>
  .next (finish (.word (payloadRes (attenuationToWire x.value))) s)

/-- CVTGAIN (R108). -/
def execCvtgain (d : Dword) (s : State) : StepOutcome :=
  require (dbOperand? d) .nanErr s fun x =>
  .next (finish (.word (payloadRes (gainToWire x.value))) s)

/-- CVTMETER: the sample is A:B, A the high byte (R114). -/
def execCvtmeter (a b : Byte) (s : State) : StepOutcome :=
  .next (finish (.word (meterSampleToDb (a ++ b))) s)

end Sys2Proof.Machine
end

