-- ==== Sys2Proof/Machine/Get.lean ====
section
/-! DEFINITION. GET, once for each selector (spec/41_topology_encoder.md R150): the stored value, a tag or a
bit zero-extended, or the binary64 word as stored. No request, no shadow write. -/

namespace Sys2Proof.Machine

/-- A tag or a bit on the result port, zero-extended to 64 bits (spec/30_encoding.md R78). -/
def tagResult (n : Nat) : Result := .word (BitVec.ofNat 64 n)

/-- GET MSRC (selector 0). -/
def execGetMsrc (a : Byte) (s : State) : StepOutcome :=
  require (matrixInput? a) .rangeErr s fun i =>
  .next (finish (tagResult (sourceTag (s.msrc.get i))) s)

/-- GET MGAIN (selector 1). -/
def execGetMgain (a b : Byte) (s : State) : StepOutcome :=
  require (matrixInput? a) .rangeErr s fun i =>
  require (matrixBus? b) .rangeErr s fun bus =>
  .next (finish (.word ((s.mgain.get i).get bus)) s)

/-- GET ROUTE (selector 2). -/
def execGetRoute (a : Byte) (s : State) : StepOutcome :=
  require (destination? a) .rangeErr s fun d =>
  .next (finish (tagResult (busTag (s.route.get d))) s)

/-- GET MUTE (selector 3). -/
def execGetMute (a : Byte) (s : State) : StepOutcome :=
  require (outputBus? a) .rangeErr s fun k =>
  .next (finish (tagResult (s.mute.get k).toNat) s)

/-- GET ATT (selector 4). -/
def execGetAtt (a : Byte) (s : State) : StepOutcome :=
  require (outputBus? a) .rangeErr s fun k =>
  .next (finish (.word (s.att.get k)) s)

/-- GET IMP (selector 5): UNSET_ERR before the first write (spec/60_exceptions.md R215). -/
def execGetImp (a : Byte) (s : State) : StepOutcome :=
  require (channel? a) .rangeErr s fun c =>
  require (s.imp.get c) .unsetErr s fun mode =>
  .next (finish (tagResult (impModeTag mode)) s)

/-- GET CLK (selector 6): UNSET_ERR before the first write (R215). -/
def execGetClk (s : State) : StepOutcome :=
  require s.clk .unsetErr s fun clock =>
  .next (finish (tagResult (clockTag clock)) s)

end Sys2Proof.Machine
end

