-- ==== Sys2Proof/WellFormed.lean ====
section
/-! DEFINITION. Which instructions the block can be asked for. Every command with any operand bytes is
well formed: an operand outside its domain is a command that ends with RANGE_ERR, not an ill-formed one
(spec/30_encoding.md R76). A request kind is well formed when its fields and its payload are ones the
address map of spec/20_memory.md R51 holds. -/

namespace Sys2Proof

/-- The payloads `attenuationToWire` can give: the words 0x8000 to 0xFFFF and 0x0000
(spec/40_codecs.md R102, R103). -/
def attPayloadOk (p0 p1 : Byte) : Bool := p1.toNat ≥ 0x80 || (p0 == 0 && p1 == 0)

/-- The payloads `gainToWire` can give: `[0x00, v mod 256]` with v in -128..6 (spec/40_codecs.md R106). -/
def gainPayloadOk (p0 p1 : Byte) : Bool := p0 == 0 && (p1.toNat ≤ 6 || p1.toNat ≥ 0x80)

/-- Well-formedness: every field of `value` within its domain, and a codec payload one that the codec gives. A code
from an open table is within its table by the operand's type (log 10). -/
def Instr.wellFormed : Instr → Bool
  | .wImp c _ => c == 1 || c == 2
  | .wMute k m => k.toNat ≤ 4 && m.toNat ≤ 1
  | .wAtt k p0 p1 => k.toNat ≤ 4 && attPayloadOk p0 p1
  | .wSrc i _ => i.toNat ≤ 17
  | .wGain i b p0 p1 => i.toNat ≤ 17 && b.toNat ≤ 5 && gainPayloadOk p0 p1
  | .wRoute d _ => d.toNat ≤ 5
  | .wClk _ | .wSave | .wMtrIn | .wMtrDaw | .wMtrMix => true
  | .setimp _ _ | .setclk _ | .setmute _ _ | .setatt _ _ | .setsrc _ _ | .setgain _ _ _ | .setroute _ _ => true
  | .save | .factory | .zero | .meterpoll | .cvtatt _ | .cvtgain _ | .cvtmeter _ _ => true
  | .getMsrc _ | .getMgain _ _ | .getRoute _ | .getMute _ | .getAtt _ | .getImp _ | .getClk => true

end Sys2Proof
end

