-- ==== Sys2Proof/Decode.lean ====
section
/-! DEFINITION. The decoder and the encoder: command words (spec/30_encoding.md R70-R77) and request kinds
(R79, R80). The decoder is total and refuses by name; the encoder is written from the same tables. -/

namespace Sys2Proof

/-- Why a word is no instruction. The first three are the illegal encodings of R76, each an ILLEGAL_CMD
(spec/60_exceptions.md R212); the last is a request that matches no row of R79 (R80). -/
inductive DecodeError where
  /-- `OP = 0x0` (R76). -/
  | reservedOpcode
  /-- A field the opcode does not use is not zero (R75, R77). -/
  | unusedField
  /-- A GET with `S` 7 to 15 (R77). -/
  | reservedSelector
  /-- A request of no kind of R79 (R80). -/
  | noSuchRequest
  deriving DecidableEq, Repr

/-! ## Fields of the command word (R71) -/

/-- C[31:28]. -/
def opOf (c : Word) : BitVec 4 := c.extractLsb' 28 4
/-- C[27:24]. -/
def selOf (c : Word) : BitVec 4 := c.extractLsb' 24 4
/-- C[23:16]. -/
def aOf (c : Word) : Byte := c.extractLsb' 16 8
/-- C[15:8]. -/
def bOf (c : Word) : Byte := c.extractLsb' 8 8
/-- C[7:0]. -/
def zOf (c : Word) : Byte := c.extractLsb' 0 8

/-- The command word with these fields and `Z = 0` (R71). -/
def commandWord (op sel : BitVec 4) (a b : Byte) : Word := op ++ sel ++ a ++ b ++ 0#8

/-- The opcodes that take a data word (R72). -/
def takesData (op : BitVec 4) : Bool := op == 0x4 || op == 0x6 || op == 0xC || op == 0xD

/-- The length of a command in bits, told from its opcode alone (R72). -/
def commandBits (c : Word) : Nat := if takesData (opOf c) then 96 else 32

/-! ## Decoding a command -/

/-- The instruction, if the fields it does not use are zero (R75). -/
def onlyIf (unusedZero : Bool) (i : Instr) : Except DecodeError Instr :=
  if unusedZero then .ok i else .error .unusedField

/-- GET: the selector names the element and the operands it uses (R77). -/
def decodeGet (sel : BitVec 4) (a b : Byte) : Except DecodeError Instr :=
  match sel.toNat with
  | 0 => onlyIf (b == 0) (.getMsrc a)
  | 1 => .ok (.getMgain a b)
  | 2 => onlyIf (b == 0) (.getRoute a)
  | 3 => onlyIf (b == 0) (.getMute a)
  | 4 => onlyIf (b == 0) (.getAtt a)
  | 5 => onlyIf (b == 0) (.getImp a)
  | 6 => onlyIf (a == 0 && b == 0) .getClk
  | _ => .error .reservedSelector

/-- The opcodes other than GET, with `S` and `Z` already found zero (R74, R75). -/
def decodeOp (op : BitVec 4) (a b : Byte) (d : Dword) : Except DecodeError Instr :=
  match op.toNat with
  | 0x1 => .ok (.setimp a b)
  | 0x2 => onlyIf (a == 0) (.setclk b)
  | 0x3 => .ok (.setmute a b)
  | 0x4 => onlyIf (b == 0) (.setatt a d)
  | 0x5 => .ok (.setsrc a b)
  | 0x6 => .ok (.setgain a b d)
  | 0x7 => .ok (.setroute a b)
  | 0x8 => onlyIf (a == 0 && b == 0) .save
  | 0x9 => onlyIf (a == 0 && b == 0) .factory
  | 0xA => onlyIf (a == 0 && b == 0) .zero
  | 0xB => onlyIf (a == 0 && b == 0) .meterpoll
  | 0xC => onlyIf (a == 0 && b == 0) (.cvtatt d)
  | 0xD => onlyIf (a == 0 && b == 0) (.cvtgain d)
  | 0xE => .ok (.cvtmeter a b)
  | _ => .error .reservedOpcode

/-- The command a command word and its data word spell, or why they spell none (R74-R77). -/
def decodeCommand (cmd : Command) : Except DecodeError Instr :=
  let c := cmd.word
  if opOf c = 0x0 then .error .reservedOpcode
  else if zOf c ≠ 0 then .error .unusedField
  else if opOf c = 0xF then decodeGet (selOf c) (aOf c) (bOf c)
  else if selOf c ≠ 0 then .error .unusedField
  else decodeOp (opOf c) (aOf c) (bOf c) cmd.data

/-! ## Decoding a request (R79, R80) -/

/-- An OUT request's kind and operands, from its `index` and the fields of its `value` alone (R80). The channel is
`value[7:0] - 1`. -/
def kindOfOut (value index : Half) : Option RequestKind :=
  let hi : Byte := value.extractLsb' 8 8
  let lo : Byte := value.extractLsb' 0 8
  if index = 0x0100 ∧ hi = 0x09 then some (.imp (lo - 1))
  else if index = 0x2800 ∧ value = 0x0100 then some .clk
  else if index = 0x0a00 ∧ hi = 0x01 then some (.mute lo)
  else if index = 0x0a00 ∧ hi = 0x02 then some (.att lo)
  else if index = 0x3200 ∧ hi = 0x06 then some (.src lo)
  else if index = 0x3c00 ∧ hi = 0x01 then some (.gain (value.extractLsb' 3 5) (value.extractLsb' 0 3))
  else if index = 0x3300 ∧ hi = 0x00 then some (.route lo)
  else if index = 0x3c00 ∧ value = 0x005a then some .save
  else none

/-- An IN request's kind, from its `index` and its `value` alone (R80). -/
def kindOfIn (value index : Half) : Option RequestKind :=
  if index = 0x3c00 ∧ value = 0x0000 then some .mtrIn
  else if index = 0x3c00 ∧ value = 0x0003 then some .mtrDaw
  else if index = 0x3c00 ∧ value = 0x0001 then some .mtrMix
  else none

/-- The mode of a payload `[IMP_CODE(mode), 0x00]`. -/
def impPayload : List PayloadByte → Option ImpMode
  | [.impCode mode, .byte z] => if z = 0 then some mode else none
  | _ => none

/-- The clock of a payload `[CLK_CODE(clock)]`. -/
def clkPayload : List PayloadByte → Option Clock
  | [.clkCode clock] => some clock
  | _ => none

/-- The source of a payload `[SRC_CODE(src), 0x00]`. -/
def srcPayload : List PayloadByte → Option SignalSource
  | [.srcCode src, .byte z] => if z = 0 then some src else none
  | _ => none

/-- The bus of a payload `[bus byte, 0x00]`. -/
def busPayload : List PayloadByte → Option MixBus
  | [.busByte bus, .byte z] => if z = 0 then some bus else none
  | _ => none

/-- The two numbers of a two-byte payload. -/
def wordPayload : List PayloadByte → Option (Byte × Byte)
  | [.byte p0, .byte p1] => some (p0, p1)
  | _ => none

/-- The bit of a payload `[m, 0x00]`. -/
def mutePayload (payload : List PayloadByte) : Option Byte :=
  (wordPayload payload).bind fun p => if p.2 = 0 then some p.1 else none

/-- The instruction of a kind, if these can be its payload bytes (R79): the payload gives the operands that
`value` does not hold. -/
def withPayload (kind : RequestKind) (payload : List PayloadByte) : Option Instr :=
  match kind with
  | .imp c => (impPayload payload).map (.wImp (c + 1))
  | .clk => (clkPayload payload).map .wClk
  | .mute k => (mutePayload payload).map (.wMute k)
  | .att k => (wordPayload payload).map fun p => .wAtt k p.1 p.2
  | .src i => (srcPayload payload).map (.wSrc i)
  | .gain i b => (wordPayload payload).map fun p => .wGain i b p.1 p.2
  | .route d => (busPayload payload).map (.wRoute d)
  | .save => if payload = [.byte 0xa5] then some .wSave else none
  | .mtrIn | .mtrDaw | .mtrMix => none

/-- The instruction of a kind, if this is its expected length (R79). -/
def withLength (kind : RequestKind) (n : Half) : Option Instr :=
  match kind with
  | .mtrIn => if n = 36 then some .wMtrIn else none
  | .mtrDaw => if n = 12 then some .wMtrDaw else none
  | .mtrMix => if n = 16 then some .wMtrMix else none
  | .imp _ | .clk | .mute _ | .att _ | .src _ | .gain _ _ | .route _ | .save => none

/-- What was found, or that there is no such request. -/
def orNoRequest (i : Option Instr) : Except DecodeError Instr :=
  match i with
  | some i => .ok i
  | none => .error .noSuchRequest

/-- The instruction of a request, from all but its request code: its kind first, and then the payload or the
length that the kind has. -/
def decodeOrder : RequestOrder → Except DecodeError Instr
  | .out value index payload => orNoRequest ((kindOfOut value index).bind (withPayload · payload))
  | .inp value index n => orNoRequest ((kindOfIn value index).bind (withLength · n))

/-- The instruction at either port. -/
def decode : PortWord → Except DecodeError Instr
  | .command cmd => decodeCommand cmd
  | .order o => decodeOrder o

/-! ## The encoder -/

/-- The words of an instruction: the command word and data word of a command (R74, R77), the request of a
request kind (R79). -/
def encode : Instr → PortWord
  | .setimp a b => .command ⟨commandWord 0x1 0 a b, 0⟩
  | .setclk b => .command ⟨commandWord 0x2 0 0 b, 0⟩
  | .setmute a b => .command ⟨commandWord 0x3 0 a b, 0⟩
  | .setatt a d => .command ⟨commandWord 0x4 0 a 0, d⟩
  | .setsrc a b => .command ⟨commandWord 0x5 0 a b, 0⟩
  | .setgain a b d => .command ⟨commandWord 0x6 0 a b, d⟩
  | .setroute a b => .command ⟨commandWord 0x7 0 a b, 0⟩
  | .save => .command ⟨commandWord 0x8 0 0 0, 0⟩
  | .factory => .command ⟨commandWord 0x9 0 0 0, 0⟩
  | .zero => .command ⟨commandWord 0xA 0 0 0, 0⟩
  | .meterpoll => .command ⟨commandWord 0xB 0 0 0, 0⟩
  | .cvtatt d => .command ⟨commandWord 0xC 0 0 0, d⟩
  | .cvtgain d => .command ⟨commandWord 0xD 0 0 0, d⟩
  | .cvtmeter a b => .command ⟨commandWord 0xE 0 a b, 0⟩
  | .getMsrc a => .command ⟨commandWord 0xF 0 a 0, 0⟩
  | .getMgain a b => .command ⟨commandWord 0xF 1 a b, 0⟩
  | .getRoute a => .command ⟨commandWord 0xF 2 a 0, 0⟩
  | .getMute a => .command ⟨commandWord 0xF 3 a 0, 0⟩
  | .getAtt a => .command ⟨commandWord 0xF 4 a 0, 0⟩
  | .getImp a => .command ⟨commandWord 0xF 5 a 0, 0⟩
  | .getClk => .command ⟨commandWord 0xF 6 0 0, 0⟩
  | .wImp c mode => .order (.out (0x09#8 ++ c) 0x0100 [.impCode mode, .byte 0])
  | .wClk clock => .order (.out 0x0100 0x2800 [.clkCode clock])
  | .wMute k m => .order (.out (0x01#8 ++ k) 0x0a00 [.byte m, .byte 0])
  | .wAtt k p0 p1 => .order (.out (0x02#8 ++ k) 0x0a00 [.byte p0, .byte p1])
  | .wSrc i src => .order (.out (0x06#8 ++ i) 0x3200 [.srcCode src, .byte 0])
  | .wGain i b p0 p1 => .order (.out (0x01#8 ++ i ++ b) 0x3c00 [.byte p0, .byte p1])
  | .wRoute d bus => .order (.out (0x00#8 ++ d) 0x3300 [.busByte bus, .byte 0])
  | .wSave => .order (.out 0x005a 0x3c00 [.byte 0xa5])
  | .wMtrIn => .order (.inp 0x0000 0x3c00 36)
  | .wMtrDaw => .order (.inp 0x0003 0x3c00 12)
  | .wMtrMix => .order (.inp 0x0001 0x3c00 16)

/-! ## The rows of spec/opcode_table.json -/

/-- The bits a row of the table is matched against: the command word, or the `value` of the request. -/
def Instr.codeWord (i : Instr) : Word :=
  match encode i with
  | .command cmd => cmd.word
  | .order (.out value _ _) => value.setWidth 32
  | .order (.inp value _ _) => value.setWidth 32

/-- The mask and the match of an instruction's row (R75, R77, R79). -/
def Instr.row : Instr → Word × Word
  | .setimp _ _ => (0xFF0000FF, 0x10000000)
  | .setclk _ => (0xFFFF00FF, 0x20000000)
  | .setmute _ _ => (0xFF0000FF, 0x30000000)
  | .setatt _ _ => (0xFF00FFFF, 0x40000000)
  | .setsrc _ _ => (0xFF0000FF, 0x50000000)
  | .setgain _ _ _ => (0xFF0000FF, 0x60000000)
  | .setroute _ _ => (0xFF0000FF, 0x70000000)
  | .save => (0xFFFFFFFF, 0x80000000)
  | .factory => (0xFFFFFFFF, 0x90000000)
  | .zero => (0xFFFFFFFF, 0xA0000000)
  | .meterpoll => (0xFFFFFFFF, 0xB0000000)
  | .cvtatt _ => (0xFFFFFFFF, 0xC0000000)
  | .cvtgain _ => (0xFFFFFFFF, 0xD0000000)
  | .cvtmeter _ _ => (0xFF0000FF, 0xE0000000)
  | .getMsrc _ => (0xFF00FFFF, 0xF0000000)
  | .getMgain _ _ => (0xFF0000FF, 0xF1000000)
  | .getRoute _ => (0xFF00FFFF, 0xF2000000)
  | .getMute _ => (0xFF00FFFF, 0xF3000000)
  | .getAtt _ => (0xFF00FFFF, 0xF4000000)
  | .getImp _ => (0xFF00FFFF, 0xF5000000)
  | .getClk => (0xFFFFFFFF, 0xF6000000)
  | .wImp _ _ => (0xFFFFFF00, 0x0900)
  | .wClk _ => (0xFFFFFFFF, 0x0100)
  | .wMute _ _ => (0xFFFFFF00, 0x0100)
  | .wAtt _ _ _ => (0xFFFFFF00, 0x0200)
  | .wSrc _ _ => (0xFFFFFF00, 0x0600)
  | .wGain _ _ _ _ => (0xFFFFFF00, 0x0100)
  | .wRoute _ _ => (0xFFFFFF00, 0x0000)
  | .wSave => (0xFFFFFFFF, 0x005a)
  | .wMtrIn => (0xFFFFFFFF, 0x0000)
  | .wMtrDaw => (0xFFFFFFFF, 0x0003)
  | .wMtrMix => (0xFFFFFFFF, 0x0001)

/-- A request with this `value` and every operand of its payload 0: the byte 0, or the code of the member with tag 0. The table's request rows give the 16 bits
of `value` alone, which several kinds share; which of them a value stands for here is a DESIGN CHOICE
(log 9). The payload of W_SAVE and the lengths of the reads are those the rows fix. -/
def orderOfValue (value : Half) : RequestOrder :=
  let hi : Byte := value.extractLsb' 8 8
  let lo : Byte := value.extractLsb' 0 8
  if value = 0x0000 then .inp value 0x3c00 36
  else if value = 0x0003 then .inp value 0x3c00 12
  else if value = 0x0001 then .inp value 0x3c00 16
  else if value = 0x005a then .out value 0x3c00 [.byte 0xa5]
  else if value = 0x0100 then .out value 0x2800 [.clkCode .internal]
  else if hi = 0x09 then .out value 0x0100 [.impCode .lineIn, .byte 0]
  else if hi = 0x01 ∧ lo.toNat ≤ 4 then .out value 0x0a00 [.byte 0, .byte 0]
  else if hi = 0x01 then .out value 0x3c00 [.byte 0, .byte 0]
  else if hi = 0x02 then .out value 0x0a00 [.byte 0, .byte 0]
  else if hi = 0x06 then .out value 0x3200 [.srcCode .off, .byte 0]
  else .out value 0x3300 [.busByte (.source .off), .byte 0]

/-- The port word of a table row's bits: 16 bits are the `value` of a request, more are a command word in
bits 31..0 with its data word in bits 95..32 (log 9, log 14). -/
def portWordOfBits (nbits w : Nat) : PortWord :=
  if nbits ≤ 16 then .order (orderOfValue (BitVec.ofNat 16 w))
  else .command ⟨BitVec.ofNat 32 w, BitVec.ofNat 64 (w >>> 32)⟩

/-- What the decoder reads from an instruction whose bits are `w`. -/
def decodeTableWord (nbits w : Nat) : Option Instr :=
  match decode (portWordOfBits nbits w) with
  | .ok i => some i
  | .error _ => none

end Sys2Proof
end

