-- ==== Sys2Proof/Machine/Meter.lean ====
section
/-! DEFINITION. METERPOLL and the snapshot decoder (spec/43_meter_decoder.md R190-R199). -/

namespace Sys2Proof.Machine

/-- The read of the input block: 18 channels (R190). -/
def inputBlockRequest : ControlRequest := .inp 0x03 0x0000 0x3c00 36
/-- The read of the DAW block: 6 channels (R190). -/
def dawBlockRequest : ControlRequest := .inp 0x03 0x0003 0x3c00 12
/-- The read of the mixer block: 8 channels (R190). -/
def mixerBlockRequest : ControlRequest := .inp 0x03 0x0001 0x3c00 16

/-- Channel `n` of a block: the low byte first (R195). -/
def channelSample (block : List Byte) (n : Nat) : Half :=
  block.getD (2 * n + 1) 0 ++ block.getD (2 * n) 0

/-- The block and the channel in it of entry `j` of the snapshot (R197). -/
def snapshotSample (sIn sDaw sMix : List Byte) (j : Nat) : Half :=
  if j < 18 then channelSample sIn j
  else if j < 24 then channelSample sDaw (j - 18)
  else channelSample sMix (j - 24)

/-- decodeMeterSnapshot (R196): `none` is FORMAT_ERR, for a block of the wrong length. -/
def decodeMeterSnapshot (sIn sDaw sMix : List Byte) : Option (Vector Dword 32) :=
  if sIn.length = 36 ∧ sDaw.length = 12 ∧ sMix.length = 16 then
    some (Vector.ofFn fun j => meterSampleToDb (snapshotSample sIn sDaw sMix j))
  else none

/-- The end of METERPOLL once all three reads returned bytes (R192). -/
def finishSnapshot (snap : Option (Vector Dword 32)) (s : State) : State :=
  match snap with
  | some v => finish (.snapshot v) s
  | none => raise .formatErr s

/-- One meter read, and what follows if it returned bytes; a TransportError ends the command, and no later
read is issued (R192). -/
def readBlock (r : ControlRequest) (s : State) (k : List Byte → State → State) : State :=
  match (emit r s).1 with
  | .transportError => raise .transportErr (emit r s).2
  | .success bytes => k bytes (emit r s).2

/-- The state after METERPOLL: three reads in the order input, DAW, mixer, then the decoder (R192, R193). -/
def pollMeters (s : State) : State :=
  readBlock inputBlockRequest s fun sIn s1 =>
  readBlock dawBlockRequest s1 fun sDaw s2 =>
  readBlock mixerBlockRequest s2 fun sMix s3 =>
  finishSnapshot (decodeMeterSnapshot sIn sDaw sMix) s3

/-- METERPOLL (R192). -/
def execMeterpoll (s : State) : StepOutcome := conduct 3 s (pollMeters s)

end Sys2Proof.Machine
end

