-- ==== Sys2Proof/Machine/Requests.lean ====
section
/-! DEFINITION. The request kinds W_* of the opcode table, each run by itself (spec/30_encoding.md R79): one
`Emit` at the request port (spec/20_memory.md R55-R57), with the field split of R79. A request kind is not a
command: it writes no shadow register, no STATUS and no ERRSEEN, and leaves the result port as it is. -/

namespace Sys2Proof.Machine

/-- The state once a request has gone out and been answered. -/
def afterEmit (r : ControlRequest) (s : State) : State := (emit r s).2

/-- Emit one request, if it is one the address map holds (R51); the block never emits another (log 10). -/
def issue (allowed : Bool) (r : ControlRequest) (s : State) : StepOutcome :=
  if allowed then conduct 1 s (afterEmit r s) else .refused .outsideAddressMap

/-- W_IMP: value[15:8] = 0x09, value[7:0] = channel + 1. -/
def execWImp (c : Byte) (mode : ImpMode) (s : State) : StepOutcome :=
  issue (Instr.wImp c mode).wellFormed
    (.out Config.setRequestCode (0x09#8 ++ c) 0x0100 [impCode mode, 0x00]) s

/-- W_CLK: value = 0x0100. -/
def execWClk (clock : Clock) (s : State) : StepOutcome :=
  issue (Instr.wClk clock).wellFormed (.out Config.setRequestCode 0x0100 0x2800 [clkCode clock]) s

/-- W_MUTE: value[15:8] = 0x01, value[7:0] = k. -/
def execWMute (k m : Byte) (s : State) : StepOutcome :=
  issue (Instr.wMute k m).wellFormed
    (.out Config.setRequestCode (0x01#8 ++ k) 0x0a00 [m, 0x00]) s

/-- W_ATT: value[15:8] = 0x02, value[7:0] = k. -/
def execWAtt (k p0 p1 : Byte) (s : State) : StepOutcome :=
  issue (Instr.wAtt k p0 p1).wellFormed
    (.out Config.setRequestCode (0x02#8 ++ k) 0x0a00 [p0, p1]) s

/-- W_SRC: value[15:8] = 0x06, value[7:0] = i. -/
def execWSrc (i : Byte) (src : SignalSource) (s : State) : StepOutcome :=
  issue (Instr.wSrc i src).wellFormed
    (.out Config.setRequestCode (0x06#8 ++ i) 0x3200 [srcCode src, 0x00]) s

/-- W_GAIN: value[15:8] = 0x01, value[7:3] = i, value[2:0] = b. -/
def execWGain (i : BitVec 5) (b : BitVec 3) (p0 p1 : Byte) (s : State) : StepOutcome :=
  issue (Instr.wGain i b p0 p1).wellFormed
    (.out Config.setRequestCode (0x01#8 ++ i ++ b) 0x3c00 [p0, p1]) s

/-- W_ROUTE: value[15:8] = 0x00, value[7:0] = d. -/
def execWRoute (d : Byte) (bus : MixBus) (s : State) : StepOutcome :=
  issue (Instr.wRoute d bus).wellFormed
    (.out Config.setRequestCode (0x00#8 ++ d) 0x3300 [busByte bus, 0x00]) s

/-- W_SAVE: value = 0x005a, request code 0x03. -/
def execWSave (s : State) : StepOutcome := issue Instr.wSave.wellFormed saveRequest s

/-- W_MTR_IN: value = 0x0000, request code 0x03. -/
def execWMtrIn (s : State) : StepOutcome := issue Instr.wMtrIn.wellFormed inputBlockRequest s

/-- W_MTR_DAW: value = 0x0003, request code 0x03. -/
def execWMtrDaw (s : State) : StepOutcome := issue Instr.wMtrDaw.wellFormed dawBlockRequest s

/-- W_MTR_MIX: value = 0x0001, request code 0x03. -/
def execWMtrMix (s : State) : StepOutcome := issue Instr.wMtrMix.wellFormed mixerBlockRequest s

/-! ## The wire decode (spec/30_encoding.md R80) -/

/-- The request code of a kind: 0x03 for Save and the meter reads, SRQ for the others (R79). -/
def requestCode : RequestKind → Byte
  | .save | .mtrIn | .mtrDaw | .mtrMix => 0x03
  | .imp _ | .clk | .mute _ | .att _ | .src _ | .gain _ _ | .route _ => Config.setRequestCode

/-- The wire decode: a request's kind and the operands in its `value`, from its direction, request code, `index`
and `value`, whatever its payload or expected length (R80). `none` is a request that no SMC block emitted. -/
def wireDecode : ControlRequest → Option RequestKind
  | .out code value index _ => (kindOfOut value index).filter fun kind => code = requestCode kind
  | .inp code value index _ => (kindOfIn value index).filter fun kind => code = requestCode kind

/-- The member that a code table gives this byte to, if there is one. -/
def memberOf {α : Type} (members : List α) (code : α → Byte) (x : Byte) : Option α :=
  members.find? fun m => code m = x

/-- The first payload byte of a request of this kind, named by its member where the kind's byte is a code. -/
def firstByte (kind : RequestKind) (x : Byte) : PayloadByte :=
  match kind with
  | .imp _ => (memberOf impModesInOrder impCode x).elim (.byte x) .impCode
  | .clk => (memberOf clocksInOrder clkCode x).elim (.byte x) .clkCode
  | .src _ => (memberOf sourcesInOrder srcCode x).elim (.byte x) .srcCode
  | .route _ => (memberOf busesInOrder Machine.busByte x).elim (.byte x) .busByte
  | .mute _ | .att _ | .gain _ _ | .save | .mtrIn | .mtrDaw | .mtrMix => .byte x

/-- The payload of a request of this kind, its code named by its member. -/
def namedPayload (kind : RequestKind) : List Byte → List PayloadByte
  | [] => []
  | x :: rest => firstByte kind x :: rest.map .byte

/-- The whole request as an instruction: its kind by the wire decode, and the payload or length it must have. A code
byte that its table gives to no member makes it no request of the block. -/
def decodeRequest (r : ControlRequest) : Except DecodeError Instr :=
  orNoRequest ((wireDecode r).bind fun kind =>
    match r with
    | .out _ _ _ payload => withPayload kind (namedPayload kind payload)
    | .inp _ _ _ n => withLength kind n)

end Sys2Proof.Machine
end

