-- ==== Sys2Proof/Machine/SetCommands.lean ====
section
/-! DEFINITION. The set commands and SAVE (spec/41_topology_encoder.md R129-R146). Each checks operand A,
then operand B, then the dB operand, and then runs its one set operation. -/

namespace Sys2Proof.Machine

/-- SETIMP (R130). -/
def execSetimp (a b : Byte) (s : State) : StepOutcome :=
  require (channel? a) .rangeErr s fun c =>
  require (impMode? b) .rangeErr s fun mode =>
  conductOps [.imp c mode] s

/-- SETCLK (R132). -/
def execSetclk (b : Byte) (s : State) : StepOutcome :=
  require (clock? b) .rangeErr s fun clock =>
  conductOps [.clk clock] s

/-- SETMUTE (R134). -/
def execSetmute (a b : Byte) (s : State) : StepOutcome :=
  require (outputBus? a) .rangeErr s fun k =>
  require (muteBit? b) .rangeErr s fun m =>
  conductOps [.mute k m] s

/-- SETATT (R136). -/
def execSetatt (a : Byte) (d : Dword) (s : State) : StepOutcome :=
  require (outputBus? a) .rangeErr s fun k =>
  require (dbOperand? d) .nanErr s fun x =>
  conductOps [.att k x] s

/-- SETSRC (R140). -/
def execSetsrc (a b : Byte) (s : State) : StepOutcome :=
  require (matrixInput? a) .rangeErr s fun i =>
  require (source? b) .rangeErr s fun src =>
  conductOps [.src i src] s

/-- SETGAIN (R142). -/
def execSetgain (a b : Byte) (d : Dword) (s : State) : StepOutcome :=
  require (matrixInput? a) .rangeErr s fun i =>
  require (matrixBus? b) .rangeErr s fun bus =>
  require (dbOperand? d) .nanErr s fun x =>
  conductOps [.gain i bus x] s

/-- SETROUTE (R144). -/
def execSetroute (a b : Byte) (s : State) : StepOutcome :=
  require (destination? a) .rangeErr s fun d =>
  require (mixBus? b) .rangeErr s fun bus =>
  conductOps [.route d bus] s

/-- SAVE (R146): no shadow register is written. -/
def execSave (s : State) : StepOutcome :=
  conduct 1 s (settle (emit saveRequest s))

end Sys2Proof.Machine
end

