-- ==== Sys2Proof/Machine/Dispatch.lean ====
section
/-! DEFINITION. The meaning of every instruction, one arm each (spec/30_encoding.md R74, R77, R79). -/

namespace Sys2Proof.Machine

def exec (i : Instr) (s : State) : Host.Outcome State Fault Refusal :=
  match i with
  | .setimp a b => Sys2Proof.Machine.execSetimp a b s
  | .setclk b => Sys2Proof.Machine.execSetclk b s
  | .setmute a b => Sys2Proof.Machine.execSetmute a b s
  | .setatt a d => Sys2Proof.Machine.execSetatt a d s
  | .setsrc a b => Sys2Proof.Machine.execSetsrc a b s
  | .setgain a b d => Sys2Proof.Machine.execSetgain a b d s
  | .setroute a b => Sys2Proof.Machine.execSetroute a b s
  | .save => Sys2Proof.Machine.execSave s
  | .factory => Sys2Proof.Machine.execFactory s
  | .zero => Sys2Proof.Machine.execZero s
  | .meterpoll => Sys2Proof.Machine.execMeterpoll s
  | .cvtatt d => Sys2Proof.Machine.execCvtatt d s
  | .cvtgain d => Sys2Proof.Machine.execCvtgain d s
  | .cvtmeter a b => Sys2Proof.Machine.execCvtmeter a b s
  | .getMsrc a => Sys2Proof.Machine.execGetMsrc a s
  | .getMgain a b => Sys2Proof.Machine.execGetMgain a b s
  | .getRoute a => Sys2Proof.Machine.execGetRoute a s
  | .getMute a => Sys2Proof.Machine.execGetMute a s
  | .getAtt a => Sys2Proof.Machine.execGetAtt a s
  | .getImp a => Sys2Proof.Machine.execGetImp a s
  | .getClk => Sys2Proof.Machine.execGetClk s
  | .wImp c mode => Sys2Proof.Machine.execWImp c mode s
  | .wClk clock => Sys2Proof.Machine.execWClk clock s
  | .wMute k m => Sys2Proof.Machine.execWMute k m s
  | .wAtt k p0 p1 => Sys2Proof.Machine.execWAtt k p0 p1 s
  | .wSrc j src => Sys2Proof.Machine.execWSrc j src s
  | .wGain j b p0 p1 => Sys2Proof.Machine.execWGain j b p0 p1 s
  | .wRoute d bus => Sys2Proof.Machine.execWRoute d bus s
  | .wSave => Sys2Proof.Machine.execWSave s
  | .wMtrIn => Sys2Proof.Machine.execWMtrIn s
  | .wMtrDaw => Sys2Proof.Machine.execWMtrDaw s
  | .wMtrMix => Sys2Proof.Machine.execWMtrMix s

end Sys2Proof.Machine
end

