-- ==== Sys2Proof/Machine/Fetch.lean ====
section
/-! DEFINITION. What the block takes next from its ports (spec/10_state.md R31, spec/30_encoding.md R70,
spec/60_exceptions.md R236). There is no program counter and no memory to fetch from: a step takes the one
request order that stands at the request port, if there is one, and else the host's next event. -/

namespace Sys2Proof.Machine

/-- What a step takes. -/
inductive Fetched where
  /-- Nothing: the block is idle (spec/60_exceptions.md R228). -/
  | idle
  /-- The host asserts reset (spec/70_reset_and_hazards.md R241). -/
  | reset
  /-- A command, decoded. -/
  | command (decoded : Except DecodeError Instr)
  /-- A request order, decoded (log 8). -/
  | order (decoded : Except DecodeError Instr)

/-- What a step takes, and the state with that taken. -/
def fetch (s : State) : Fetched × State :=
  match s.order, s.events with
  | some o, _ => (.order (decode (.order o)), { s with order := none })
  | none, [] => (.idle, s)
  | none, .reset :: rest => (.reset, { s with events := rest })
  | none, .command cmd :: rest => (.command (decode (.command cmd)), { s with events := rest })

/-- `s` with these words where the next step takes its instruction. -/
def place (s : State) : PortWord → State
  | .command cmd => { s with events := .command cmd :: s.events, order := none }
  | .order o => { s with order := some o }

end Sys2Proof.Machine
end

