-- ==== Sys2Proof/Machine/Step.lean ====
section
/-! DEFINITION. One step of the block (spec/10_state.md R31, spec/70_reset_and_hazards.md R252): one command,
whole; or a reset; or one request order; or nothing. -/

namespace Sys2Proof.Machine

/-- One step. A word that spells no command ends with ILLEGAL_CMD (spec/60_exceptions.md R212). -/
def step (s : State) : Host.Outcome State Fault Refusal :=
  match fetch s with
  | (.idle, t) => .next t
  | (.reset, t) => .next (resetBlock t)
  | (.command (.ok i), t) => exec i t
  | (.command (.error _), t) => .next (raise .illegalCmd t)
  | (.order (.ok i), t) => exec i t
  | (.order (.error _), _) => .refused .noSuchRequest

/-- `s` with the instruction of these bits where `step` takes its next instruction (log 4, log 9). -/
def State.withFetchWord (s : State) (nbits w : Nat) : State := place s (portWordOfBits nbits w)

end Sys2Proof.Machine
end

