-- ==== Sys2Proof/Safety.lean ====
section
/-! DEFINITION. What a good run of the block is, in the terms the statements use: the legal states
(spec/10_state.md R37), the requests the block can emit (spec/20_memory.md R51), how a command ends
(spec/60_exceptions.md R210, R211), and when the host answers. -/

namespace Sys2Proof.Machine

/-! ## Legal states -/

/-- The word is a NaN: all ones in D[62:52] and something in D[51:0] (spec/30_encoding.md R72). -/
abbrev NaNWord (d : Dword) : Prop := d.extractLsb' 52 11 = 0x7FF ∧ d.extractLsb' 0 52 ≠ 0

/-- The invariants of spec/10_state.md R37. That an MSRC entry is a SignalSource and a ROUTE entry a MixBus
holds by their types. -/
structure State.Legal (s : State) : Prop where
  gain_not_nan : ∀ (i : Fin 18) (b : Fin 6), ¬ NaNWord ((s.mgain.get i).get b)
  att_not_nan : ∀ k : Fin 5, ¬ NaNWord (s.att.get k)
  status_code : s.status.toNat ≤ 6
  errseen_bits : s.errseen &&& 0x81 = 0

/-- The shadow registers of the two states are the same (spec/10_state.md R25-R30). -/
structure SameShadow (s t : State) : Prop where
  msrc : t.msrc = s.msrc
  mgain : t.mgain = s.mgain
  route : t.route = s.route
  mute : t.mute = s.mute
  att : t.att = s.att
  imp : t.imp = s.imp
  clk : t.clk = s.clk

/-! ## The address map -/

/-- The requests the block can emit, one constructor for each row of spec/20_memory.md R51. -/
inductive InAddressMap : ControlRequest → Prop where
  | impedance (c : Fin 2) (mode : ImpMode) :
    InAddressMap (.out Config.setRequestCode (BitVec.ofNat 16 (0x0901 + c.val)) 0x0100 [impCode mode, 0x00])
  | clockSource (clock : Clock) :
    InAddressMap (.out Config.setRequestCode 0x0100 0x2800 [clkCode clock])
  | unmute (k : Fin 5) :
    InAddressMap (.out Config.setRequestCode (BitVec.ofNat 16 (0x0100 + k.val)) 0x0a00 [0x00, 0x00])
  | mute (k : Fin 5) :
    InAddressMap (.out Config.setRequestCode (BitVec.ofNat 16 (0x0100 + k.val)) 0x0a00 [0x01, 0x00])
  | attenuation (k : Fin 5) (x : ExactDb) :
    InAddressMap (.out Config.setRequestCode (BitVec.ofNat 16 (0x0200 + k.val)) 0x0a00
      [(attenuationToWire x).1, (attenuationToWire x).2])
  | source (i : Fin 18) (src : SignalSource) :
    InAddressMap (.out Config.setRequestCode (BitVec.ofNat 16 (0x0600 + i.val)) 0x3200 [srcCode src, 0x00])
  | gain (i : Fin 18) (b : Fin 6) (x : ExactDb) :
    InAddressMap (.out Config.setRequestCode (BitVec.ofNat 16 (0x0100 + 8 * i.val + b.val)) 0x3c00
      [(gainToWire x).1, (gainToWire x).2])
  | router (d : Fin 6) (bus : MixBus) :
    InAddressMap (.out Config.setRequestCode (BitVec.ofNat 16 d.val) 0x3300 [busByte bus, 0x00])
  | saveToHardware : InAddressMap (.out 0x03 0x005a 0x3c00 [0xa5])
  | inputMeters : InAddressMap (.inp 0x03 0x0000 0x3c00 36)
  | dawMeters : InAddressMap (.inp 0x03 0x0003 0x3c00 12)
  | mixerMeters : InAddressMap (.inp 0x03 0x0001 0x3c00 16)

/-- The request is of this kind, with these operands in its `value`: one constructor for each row of the table of
spec/30_encoding.md R79, the payload and the expected length left open (R80). -/
inductive OfKind : ControlRequest → RequestKind → Prop where
  | imp (c : Byte) (payload : List Byte) :
    OfKind (.out Config.setRequestCode (0x09#8 ++ (c + 1)) 0x0100 payload) (.imp c)
  | clk (payload : List Byte) : OfKind (.out Config.setRequestCode 0x0100 0x2800 payload) .clk
  | mute (k : Byte) (payload : List Byte) :
    OfKind (.out Config.setRequestCode (0x01#8 ++ k) 0x0a00 payload) (.mute k)
  | att (k : Byte) (payload : List Byte) :
    OfKind (.out Config.setRequestCode (0x02#8 ++ k) 0x0a00 payload) (.att k)
  | src (i : Byte) (payload : List Byte) :
    OfKind (.out Config.setRequestCode (0x06#8 ++ i) 0x3200 payload) (.src i)
  | gain (i : BitVec 5) (b : BitVec 3) (payload : List Byte) :
    OfKind (.out Config.setRequestCode (0x01#8 ++ i ++ b) 0x3c00 payload) (.gain i b)
  | route (d : Byte) (payload : List Byte) :
    OfKind (.out Config.setRequestCode (0x00#8 ++ d) 0x3300 payload) (.route d)
  | save (payload : List Byte) : OfKind (.out 0x03 0x005a 0x3c00 payload) .save
  | mtrIn (n : Half) : OfKind (.inp 0x03 0x0000 0x3c00 n) .mtrIn
  | mtrDaw (n : Half) : OfKind (.inp 0x03 0x0003 0x3c00 n) .mtrDaw
  | mtrMix (n : Half) : OfKind (.inp 0x03 0x0001 0x3c00 n) .mtrMix

/-- Every request emitted so far is in the address map. -/
structure State.EmitsInMap (s : State) : Prop where
  in_map : ∀ e ∈ s.trace, InAddressMap e.request

/-! ## How a command ends -/

/-- The state when a command ends with this error code, and nothing else of it (R211). -/
def errorEnd (code : Nat) (s : State) : State :=
  { s with status := BitVec.ofNat 8 code, errseen := s.errseen ||| BitVec.ofNat 8 (2 ^ code), result := .empty }

/-- The state when a command ends with OK and this result (R211). -/
def okEnd (r : Result) (s : State) : State := { s with status := 0, result := r }

/-- The state once a request has gone out and been answered: the reply used up, the exchange recorded. -/
def logged (r : ControlRequest) (s : State) : State :=
  { s with replies := s.replies.tail, trace := s.trace ++ [⟨r, answerTo r s⟩] }

/-- The end of a command that emits this one request from `s`: TRANSPORT_ERR (6) if the answer is
TransportError, else OK (spec/60_exceptions.md R216, R211). -/
def requestEnd (r : ControlRequest) (s : State) : State :=
  if (answerTo r s).isError then errorEnd 6 (logged r s) else okEnd .empty (logged r s)

/-- The host answers the requests of a command that emits up to `n` of them. -/
abbrev Answered (n : Nat) (s : State) : Prop := stopsWithin n s.replies = none

/-- The host answers the next `n` requests, each with success. -/
def AllSucceed (n : Nat) (s : State) : Prop :=
  ∀ k < n, ∃ bytes, s.replies[k]? = some (.answer (.success bytes))

/-- The first read of METERPOLL: the input block (spec/43_meter_decoder.md R190, R192). -/
def readIn : ControlRequest := .inp 0x03 0x0000 0x3c00 36
/-- The second read of METERPOLL: the DAW block. -/
def readDaw : ControlRequest := .inp 0x03 0x0003 0x3c00 12
/-- The third read of METERPOLL: the mixer block. -/
def readMix : ControlRequest := .inp 0x03 0x0001 0x3c00 16

/-- From `s` the host answers the three reads with these bytes; `t` is the state once it has. -/
structure MeterReads (s : State) (sIn sDaw sMix : List Byte) (t : State) : Prop where
  answered : Answered 3 s
  input : answerTo readIn s = .success sIn
  daw : answerTo readDaw (logged readIn s) = .success sDaw
  mixer : answerTo readMix (logged readDaw (logged readIn s)) = .success sMix
  after : t = logged readMix (logged readDaw (logged readIn s))

/-- The operand byte of an index or a tag. -/
abbrev byteOf (n : Nat) : Byte := BitVec.ofNat 8 n

/-- The instructions that are commands: all but the request kinds W_*. -/
def isCommand (i : Instr) : Bool :=
  match encode i with
  | .command _ => true
  | .order _ => false

/-- The masks and matches of the 21 command rows of the opcode table (spec/30_encoding.md R75, R77). -/
def commandRows : List (Word × Word) :=
  [(0xFF0000FF, 0x10000000), (0xFFFF00FF, 0x20000000), (0xFF0000FF, 0x30000000), (0xFF00FFFF, 0x40000000),
   (0xFF0000FF, 0x50000000), (0xFF0000FF, 0x60000000), (0xFF0000FF, 0x70000000), (0xFFFFFFFF, 0x80000000),
   (0xFFFFFFFF, 0x90000000), (0xFFFFFFFF, 0xA0000000), (0xFFFFFFFF, 0xB0000000), (0xFFFFFFFF, 0xC0000000),
   (0xFFFFFFFF, 0xD0000000), (0xFF0000FF, 0xE0000000), (0xFF00FFFF, 0xF0000000), (0xFF0000FF, 0xF1000000),
   (0xFF00FFFF, 0xF2000000), (0xFF00FFFF, 0xF3000000), (0xFF00FFFF, 0xF4000000), (0xFF00FFFF, 0xF5000000),
   (0xFFFFFFFF, 0xF6000000)]

end Sys2Proof.Machine
end

