-- ==== Sys2Proof/Certificates/Slice0/Obligations.lean ====
section
/-! DEFINITION. The statements about the SMC block, from the numbered rules of spec/. The docstring of each
names the rules it rests on; one that rests on a choice of the model names the log entry. -/

open Sys2Proof Sys2Proof.Machine

/-! ## Reset and the step -/

/-- R240, the whole rule: a reset taken between commands puts every element of the state tuple at its reset
value and emits no request; and `State.reset` is such a state. -/
def Obligations.ResetSetsEveryElement : Prop :=
  ∀ (s : State) (rest : List HostEvent), s.order = none → s.events = .reset :: rest →
    ∃ t, step s = .next t ∧ t.trace = s.trace ∧
      ∀ u ∈ [t, State.reset],
        (∀ i, u.msrc.get i = .off) ∧
        (∀ i b, (u.mgain.get i).get b = 0xFFF0000000000000) ∧
        (∀ d, u.route.get d = .source .off) ∧
        (∀ k, u.mute.get k = false) ∧
        (∀ k, u.att.get k = 0x0000000000000000) ∧
        (∀ c, u.impValid c = false ∧ u.imp.get c = none) ∧
        u.clkValid = false ∧ u.clk = none ∧ u.status = 0 ∧ u.errseen = 0x00

/-- R31, R70: a step at which the command port holds a command that decodes to `i` runs `i` in the state with
that command taken. That a request order goes first (log 8) is the model's choice. -/
def Obligations.StepRunsThePresentedCommand : Prop :=
  ∀ (s : State) (cmd : Command) (rest : List HostEvent) (i : Instr),
    s.order = none → s.events = .command cmd :: rest → decode (.command cmd) = .ok i → i.wellFormed = true →
    step s = exec i { s with events := rest }

/-- A step at which a request order stands at the request port and decodes to `i` runs `i` in the state with
the order taken. That a request kind can be run by itself is the model's choice (log 8). -/
def Obligations.StepRunsTheRequestOrder : Prop :=
  ∀ (s : State) (o : RequestOrder) (i : Instr),
    s.order = some o → decode (.order o) = .ok i → i.wellFormed = true →
    step s = exec i { s with order := none }

/-- R228, R243: with nothing at its ports the block is idle, and a step leaves every field as it is. -/
def Obligations.IdleBlockHoldsItsState : Prop :=
  ∀ s : State, s.order = none → s.events = [] → step s = .next s

/-- R212: a command word that matches no row of R75 and R77 ends with ILLEGAL_CMD, and nothing else happens:
no shadow register is written, no request is emitted. -/
def Obligations.WordOfNoRowEndsWithIllegalCmd : Prop :=
  ∀ (s : State) (c : Word) (d : Dword) (rest : List HostEvent),
    s.order = none → s.events = .command ⟨c, d⟩ :: rest →
    (∀ row ∈ commandRows, c &&& row.1 ≠ row.2) →
    step s = .next (errorEnd 1 { s with events := rest })

/-! ## Encoding -/

/-- R75, R77: a command word decodes exactly when it satisfies the match and mask of a row, and then to an
instruction of that row. -/
def Obligations.CommandDecodesExactlyByItsRow : Prop :=
  ∀ (c : Word) (d : Dword),
    (∀ i, decodeCommand ⟨c, d⟩ = .ok i → i.row ∈ commandRows ∧ c &&& i.row.1 = i.row.2) ∧
    (∀ row ∈ commandRows, c &&& row.1 = row.2 → ∃ i, decodeCommand ⟨c, d⟩ = .ok i ∧ i.row = row)

/-- R71-R77, R79: decoding the words of a well-formed instruction gives it back, for every instruction and
every operand. -/
def Obligations.DecodeOfEncodeIsTheInstruction : Prop :=
  ∀ i : Instr, i.wellFormed = true → decode (encode i) = .ok i

/-- R71-R77: a command that decodes is the encoding of what it decodes to, its data word kept where the
opcode takes one. That the encoding carries 0 where the opcode takes none is the model's choice (log 14). -/
def Obligations.EncodeOfDecodedCommandIsTheCommand : Prop :=
  ∀ (c : Word) (d : Dword) (i : Instr), decodeCommand ⟨c, d⟩ = .ok i →
    encode i = .command ⟨c, if takesData (opOf c) then d else 0⟩

/-- R72: the data word is an operand exactly for the opcodes 4, 6, C and D: for every other opcode it makes no
difference, and for these four two commands that differ in it are two instructions. -/
def Obligations.DataWordIsReadByFourOpcodes : Prop :=
  ∀ (c : Word) (d e : Dword),
    (opOf c ∉ [0x4#4, 0x6#4, 0xC#4, 0xD#4] → commandBits c = 32 ∧ decodeCommand ⟨c, d⟩ = decodeCommand ⟨c, e⟩) ∧
    (opOf c ∈ [0x4#4, 0x6#4, 0xC#4, 0xD#4] → commandBits c = 96 ∧
      ∀ i j, decodeCommand ⟨c, d⟩ = .ok i → decodeCommand ⟨c, e⟩ = .ok j → d ≠ e → i ≠ j)

/-- R71, R74, R79: a few words, written out from the examples of the spec, decode to what they stand for. Which kind
16 bits of `value` name, with every operand of its payload 0, is the model's choice (log 9), and so is D in bits 95 to 32
(log 14). -/
def Obligations.ExampleWordsDecode : Prop :=
  decodeTableWord 32 0x10010100 = some (.setimp 1 1) ∧
  decodeTableWord 96 0xC01800000000000040010000 = some (.setatt 1 0xC018000000000000) ∧
  decodeTableWord 32 0x70051E00 = some (.setroute 5 30) ∧
  decodeTableWord 32 0xE0123400 = some (.cvtmeter 0x12 0x34) ∧
  decodeTableWord 32 0xF1110500 = some (.getMgain 17 5) ∧
  decodeTableWord 16 0x0902 = some (.wImp 2 .lineIn) ∧
  decodeTableWord 32 0x20010000 = none

/-- R21-R23: every tag names its member, in the order the rules list them, and no larger tag names one. -/
def Obligations.TagsNumberTheMembers : Prop :=
  (∀ x : Byte, (source? x).isSome = decide (x.toNat ≤ 24) ∧ (mixBus? x).isSome = decide (x.toNat ≤ 30) ∧
    (impMode? x).isSome = decide (x.toNat ≤ 1) ∧ (clock? x).isSome = decide (x.toNat ≤ 2)) ∧
  (∀ s, source? (byteOf (sourceTag s)) = some s ∧ mixBus? (byteOf (sourceTag s)) = some (.source s)) ∧
  (List.range 25).map (fun n => source? (byteOf n)) =
    [some .off, some .daw1, some .daw2, some .daw3, some .daw4, some .daw5, some .daw6,
      some .analog1, some .analog2, some .analog3, some .analog4, some .analog5, some .analog6, some .analog7,
      some .analog8, some .spdif1, some .spdif2,
      some .adat1, some .adat2, some .adat3, some .adat4, some .adat5, some .adat6, some .adat7, some .adat8] ∧
  [mixBus? 25, mixBus? 26, mixBus? 27, mixBus? 28, mixBus? 29, mixBus? 30] =
    [some (.mix .m1), some (.mix .m2), some (.mix .m3), some (.mix .m4), some (.mix .m5), some (.mix .m6)] ∧
  [impMode? 0, impMode? 1] = [some .lineIn, some .instrument] ∧
  [clock? 0, clock? 1, clock? 2] = [some .internal, some .spdif, some .adat]

/-- R8 (D5, D6): what the spec fixes of the open code tables: OFF is 0xFF, each table is injective, and no
matrix output has the code of a source. The tables themselves are open (log 5). -/
def Obligations.CodeTablesAreInjective : Prop :=
  srcCode .off = 0xFF ∧ Function.Injective srcCode ∧ Function.Injective mixCode ∧
  (∀ s m, srcCode s ≠ mixCode m) ∧ Function.Injective impCode ∧ Function.Injective clkCode

/-- R79, R80: the wire decode finds a request's kind, and the operands in its `value`, exactly by the table of R79,
whatever the payload or expected length; a request of no row was not emitted. So it recovers the operands of every
set command, the channel from value[7:0] - 1; and the whole request, payload included, decodes to its request
kind. -/
def Obligations.WireDecodeRecoversTheOperands : Prop :=
  (∀ r kind, wireDecode r = some kind ↔ OfKind r kind) ∧
  (∀ r, wireDecode r = none → ¬ InAddressMap r) ∧
  (∀ c mode, wireDecode (requestOf (.imp c mode)) = some (.imp (byteOf c.val))) ∧
  (∀ clock, wireDecode (requestOf (.clk clock)) = some .clk) ∧
  (∀ k m, wireDecode (requestOf (.mute k m)) = some (.mute (byteOf k.val))) ∧
  (∀ k d, wireDecode (requestOf (.att k d)) = some (.att (byteOf k.val))) ∧
  (∀ i src, wireDecode (requestOf (.src i src)) = some (.src (byteOf i.val))) ∧
  (∀ i b d, wireDecode (requestOf (.gain i b d)) =
    some (.gain (BitVec.ofNat 5 i.val) (BitVec.ofNat 3 b.val))) ∧
  (∀ d bus, wireDecode (requestOf (.route d bus)) = some (.route (byteOf d.val))) ∧
  wireDecode saveRequest = some .save ∧ wireDecode inputBlockRequest = some .mtrIn ∧
  wireDecode dawBlockRequest = some .mtrDaw ∧ wireDecode mixerBlockRequest = some .mtrMix ∧
  (∀ c mode, decodeRequest (requestOf (.imp c mode)) = .ok (.wImp (byteOf (c.val + 1)) mode)) ∧
  (∀ clock, decodeRequest (requestOf (.clk clock)) = .ok (.wClk clock)) ∧
  (∀ k m, decodeRequest (requestOf (.mute k m)) = .ok (.wMute (byteOf k.val) (if m then 1 else 0))) ∧
  (∀ k d, decodeRequest (requestOf (.att k d)) =
    .ok (.wAtt (byteOf k.val) (attenuationToWire d.value).1 (attenuationToWire d.value).2)) ∧
  (∀ i src, decodeRequest (requestOf (.src i src)) = .ok (.wSrc (byteOf i.val) src)) ∧
  (∀ i b d, decodeRequest (requestOf (.gain i b d)) =
    .ok (.wGain (BitVec.ofNat 5 i.val) (BitVec.ofNat 3 b.val) (gainToWire d.value).1 (gainToWire d.value).2)) ∧
  (∀ d bus, decodeRequest (requestOf (.route d bus)) = .ok (.wRoute (byteOf d.val) bus)) ∧
  decodeRequest saveRequest = .ok .wSave ∧ decodeRequest inputBlockRequest = .ok .wMtrIn ∧
  decodeRequest dawBlockRequest = .ok .wMtrDaw ∧ decodeRequest mixerBlockRequest = .ok .wMtrMix

/-- R143, the whole rule: `b & 0x07 = b`; the gain value is `0x0100 + 8i + b`, which gives each of the 108 cells a
value of its own between 0x0100 and 0x018D, with low three bits never 6 or 7. -/
def Obligations.GainAddressesAreDistinct : Prop :=
  ∀ (i : Fin 18) (b : Fin 6) (d : DbOperand),
    (BitVec.ofNat 16 b.val &&& 0x07#16 = BitVec.ofNat 16 b.val) ∧
    (∃ value payload, requestOf (.gain i b d) = .out Config.setRequestCode value 0x3c00 payload ∧
      value.toNat = 0x0100 + 8 * i.val + b.val ∧ value.toNat ≤ 0x018D ∧ value.toNat % 8 ≤ 5) ∧
    ∀ (j : Fin 18) (c : Fin 6) (e : DbOperand) (value : Half) (p q : List Byte),
      requestOf (.gain i b d) = .out Config.setRequestCode value 0x3c00 p →
      requestOf (.gain j c e) = .out Config.setRequestCode value 0x3c00 q → i = j ∧ b = c

/-! ## The codecs -/

/-- R103, the whole rule, for x = n / 2^1074 and F = floor(256x): the argument 65536.5 + 256x, here a / 2u for
u = 2^1074, lies between 32768.5 and 65536.5 and rounds to 65537 + F; the word sent is that modulo 65536, in the
ranges the rule gives; read as s8.8 it stands for (F + 1)/256 dB; an exact multiple of
1/256 dB encodes one step above itself; and 0x8000 comes from the sentinel branch only. -/
def Obligations.AttenuationClosedForm : Prop :=
  (∀ n : Int, -128 * (dbUnit : Int) < n → n < 0 →
    let F := 256 * n / (dbUnit : Int)
    let w := payloadWord (attenuationToWire (.finite n))
    let a := 131073 * (dbUnit : Int) + 512 * n
    65537 * (dbUnit : Int) < a ∧ a < 131073 * (dbUnit : Int) ∧ roundHalfAway a (2 * dbUnit) = 65537 + F ∧
    32769 ≤ 65537 + F ∧ 65537 + F ≤ 65536 ∧ (w.toNat : Int) = (65537 + F) % 65536 ∧
    (256 * n < -(dbUnit : Int) → 0x8001 ≤ w.toNat) ∧ (-(dbUnit : Int) ≤ 256 * n → w = 0x0000) ∧
    w.toInt = F + 1 ∧
    (∀ k : Int, 256 * n = k * (dbUnit : Int) → w.toInt = k + 1)) ∧
  (∀ x : ExactDb, payloadWord (attenuationToWire x) = 0x8000 ↔
    x = .negInf ∨ ∃ n : Int, n ≤ -128 * (dbUnit : Int) ∧ x = .finite n) ∧
  (∀ n : Int, 0 ≤ n → payloadWord (attenuationToWire (.finite n)) = 0x0000) ∧
  payloadWord (attenuationToWire .posInf) = 0x0000 ∧
  payloadWord (attenuationToWire (.finite (-6 * (dbUnit : Int)))) = 0xFA01

/-- R105-R107: the gain word is (256·v) mod 65536, its fraction byte 0, where v is the integer nearest to the
operand, a tie going away from zero, clamped to -128..6. -/
def Obligations.GainWordIsTheClampedNearestInteger : Prop :=
  (∀ n : Int, ∃ r : Int,
    2 * |n - r * (dbUnit : Int)| ≤ (dbUnit : Int) ∧
    (2 * |n - r * (dbUnit : Int)| = (dbUnit : Int) → |n| < |r * (dbUnit : Int)|) ∧
    gainToWire (.finite n) = (0x00, BitVec.ofInt 8 (max (-128) (min 6 r))) ∧
    (payloadWord (gainToWire (.finite n))).toNat = (256 * max (-128) (min 6 r)) % 65536) ∧
  gainToWire .negInf = (0x00, 0x80) ∧ gainToWire .posInf = (0x00, 0x06)

/-- R11, R72, R24: a word has no exact value exactly when it is a NaN; and two words that have the same exact value
are the same word, but for the two zeros. -/
def Obligations.ExactValueSeparatesWords : Prop :=
  (∀ d : Dword, exactValue d = none ↔ NaNWord d) ∧
  (∀ d e : Dword, ¬ NaNWord d → exactValue d = exactValue e →
    d = e ∨ (d.extractLsb' 0 63 = 0 ∧ e.extractLsb' 0 63 = 0))

/-- R116, the codec columns: the special operands. A NaN is no operand; the infinities, -0.0 and the
subnormals have these payloads, and the operand keeps its bits. -/
def Obligations.SpecialOperandsOfTheCodecs : Prop :=
  (∀ d : Dword, NaNWord d → dbOperand? d = none) ∧
  ∀ d : Dword, (d = 0xFFF0000000000000 ∨ d = 0x7FF0000000000000 ∨ d.extractLsb' 52 11 = 0) →
    ∃ x, dbOperand? d = some x ∧ x.bits = d ∧
      (d = 0xFFF0000000000000 →
        attenuationToWire x.value = (0x00, 0x80) ∧ gainToWire x.value = (0x00, 0x80)) ∧
      (d = 0x7FF0000000000000 →
        attenuationToWire x.value = (0x00, 0x00) ∧ gainToWire x.value = (0x00, 0x06)) ∧
      (d.extractLsb' 52 11 = 0 →
        attenuationToWire x.value = (0x00, 0x00) ∧ gainToWire x.value = (0x00, 0x00))

/-- R112, P1 to P3, with R111's range: entry 0 is minus infinity; every other entry is finite and negative;
the entries never fall. That the table is computed is the model's choice (log 7). -/
def Obligations.MeterTableIsNegativeAndNeverFalls : Prop :=
  meterLut 0 = 0xFFF0000000000000 ∧
  (∀ m, 1 ≤ m → m ≤ 65535 → ∃ n : Int, exactValue (meterLut m) = some (.finite n) ∧ n < 0) ∧
  (∀ m m' : Nat, 1 ≤ m → m ≤ m' → m' ≤ 65535 → ∀ n n' : Int,
    exactValue (meterLut m) = some (.finite n) → exactValue (meterLut m') = some (.finite n') → n ≤ n')

/-- R110, R112: every reading is 20·log10(m / 65536) to within one rounding to binary64 and a relative error of
2^-90. That the table is computed is the model's choice (log 7). -/
def Obligations.MeterTableApproximatesTheLogarithm : Prop :=
  ∀ m : Nat, 1 ≤ m → m ≤ 65535 → ∃ n : Int, exactValue (meterLut m) = some (.finite n) ∧
    |(n : ℝ) / 2 ^ 1074 - 20 * Real.logb 10 ((m : ℝ) / 65536)| ≤
      (1 / 2 ^ 53 + 1 / 2 ^ 90) * |20 * Real.logb 10 ((m : ℝ) / 65536)|

/-- R104: CVTATT of an operand that is no NaN answers its payload's word and changes nothing else. -/
def Obligations.CvtattAnswersTheAttenuationWord : Prop :=
  ∀ (s : State) (d : Dword) (x : ExactDb), exactValue d = some x →
    exec (.cvtatt d) s =
      .next (okEnd (.word (0#48 ++ (attenuationToWire x).2 ++ (attenuationToWire x).1)) s)

/-- R108: CVTGAIN of an operand that is no NaN answers its payload's word and changes nothing else. -/
def Obligations.CvtgainAnswersTheGainWord : Prop :=
  ∀ (s : State) (d : Dword) (x : ExactDb), exactValue d = some x →
    exec (.cvtgain d) s = .next (okEnd (.word (0#48 ++ (gainToWire x).2 ++ (gainToWire x).1)) s)

/-- R114: CVTMETER answers the table's entry for 256·A + B, for every A and B, and changes nothing else. -/
def Obligations.CvtmeterReadsTheMeterTable : Prop :=
  ∀ (s : State) (a b : Byte),
    exec (.cvtmeter a b) s = .next (okEnd (.word (meterLut (256 * a.toNat + b.toNat))) s)

/-! ## The set commands: what each writes and emits when its operands are in their domains -/

/-- R130: SETIMP. -/
def Obligations.SetimpWritesTheSwitchAndEmits : Prop :=
  ∀ (s : State) (c : Fin 2) (mode : ImpMode), Answered 1 s →
    exec (.setimp (byteOf c.val) (byteOf (impModeTag mode))) s =
      .next (requestEnd
        (.out Config.setRequestCode (BitVec.ofNat 16 (0x0901 + c.val)) 0x0100 [impCode mode, 0x00])
        { s with imp := s.imp.set c.val (some mode) })

/-- R132: SETCLK. -/
def Obligations.SetclkWritesTheClockAndEmits : Prop :=
  ∀ (s : State) (clock : Clock), Answered 1 s →
    exec (.setclk (byteOf (clockTag clock))) s =
      .next (requestEnd (.out Config.setRequestCode 0x0100 0x2800 [clkCode clock])
        { s with clk := some clock })

/-- R134: SETMUTE. -/
def Obligations.SetmuteWritesTheMuteBitAndEmits : Prop :=
  ∀ (s : State) (k : Fin 5) (m : Bool), Answered 1 s →
    exec (.setmute (byteOf k.val) (if m then 1 else 0)) s =
      .next (requestEnd
        (.out Config.setRequestCode (BitVec.ofNat 16 (0x0100 + k.val)) 0x0a00 [if m then 0x01 else 0x00, 0x00])
        { s with mute := s.mute.set k.val m })

/-- R136: SETATT stores the word as given, not clamped, and sends the clamped payload. -/
def Obligations.SetattStoresAsGivenAndEmits : Prop :=
  ∀ (s : State) (k : Fin 5) (d : Dword) (x : ExactDb), exactValue d = some x → Answered 1 s →
    exec (.setatt (byteOf k.val) d) s =
      .next (requestEnd
        (.out Config.setRequestCode (BitVec.ofNat 16 (0x0200 + k.val)) 0x0a00
          [(attenuationToWire x).1, (attenuationToWire x).2])
        { s with att := s.att.set k.val d })

/-- R140: SETSRC, for every matrix input and every SignalSource; MGAIN is unchanged. -/
def Obligations.SetsrcWritesTheSourceAndEmits : Prop :=
  ∀ (s : State) (i : Fin 18) (src : SignalSource), Answered 1 s →
    exec (.setsrc (byteOf i.val) (byteOf (sourceTag src))) s =
      .next (requestEnd
        (.out Config.setRequestCode (BitVec.ofNat 16 (0x0600 + i.val)) 0x3200 [srcCode src, 0x00])
        { s with msrc := s.msrc.set i.val src })

/-- R142, R143: SETGAIN stores the word as given in its cell and sends the clamped payload to 0x0100 + 8i + b. -/
def Obligations.SetgainStoresAsGivenAndEmits : Prop :=
  ∀ (s : State) (i : Fin 18) (b : Fin 6) (d : Dword) (x : ExactDb), exactValue d = some x → Answered 1 s →
    exec (.setgain (byteOf i.val) (byteOf b.val) d) s =
      .next (requestEnd
        (.out Config.setRequestCode (BitVec.ofNat 16 (0x0100 + 8 * i.val + b.val)) 0x3c00
          [(gainToWire x).1, (gainToWire x).2])
        { s with mgain := s.mgain.set i.val ((s.mgain.get i).set b.val d) })

/-- R144: SETROUTE, for every destination and every MixBus, whatever fed the destination before. -/
def Obligations.SetrouteWritesTheSourceAndEmits : Prop :=
  ∀ (s : State) (d : Fin 6) (bus : MixBus), Answered 1 s →
    exec (.setroute (byteOf d.val) (byteOf (busTag bus))) s =
      .next (requestEnd (.out Config.setRequestCode (BitVec.ofNat 16 d.val) 0x3300
          [match bus with | .source src => srcCode src | .mix m => mixCode m, 0x00])
        { s with route := s.route.set d.val bus })

/-- R146: SAVE emits its one request and writes no shadow register. -/
def Obligations.SaveEmitsTheSaveRequest : Prop :=
  ∀ s : State, Answered 1 s →
    exec .save s = .next (requestEnd (.out 0x03 0x005a 0x3c00 [0xa5]) s)

/-! ## Errors -/

/-- R213: an operand outside its domain ends the command with RANGE_ERR, whatever its other operands, and
nothing else happens: no shadow register is written and no request is emitted. -/
def Obligations.OperandOutsideDomainEndsWithRangeErr : Prop :=
  ∀ (s : State) (a b : Byte) (d : Dword),
    (1 < a.toNat ∨ 1 < b.toNat → exec (.setimp a b) s = .next (errorEnd 2 s)) ∧
    (2 < b.toNat → exec (.setclk b) s = .next (errorEnd 2 s)) ∧
    (4 < a.toNat ∨ 1 < b.toNat → exec (.setmute a b) s = .next (errorEnd 2 s)) ∧
    (4 < a.toNat → exec (.setatt a d) s = .next (errorEnd 2 s)) ∧
    (17 < a.toNat ∨ 24 < b.toNat → exec (.setsrc a b) s = .next (errorEnd 2 s)) ∧
    (17 < a.toNat ∨ 5 < b.toNat → exec (.setgain a b d) s = .next (errorEnd 2 s)) ∧
    (5 < a.toNat ∨ 30 < b.toNat → exec (.setroute a b) s = .next (errorEnd 2 s)) ∧
    (17 < a.toNat → exec (.getMsrc a) s = .next (errorEnd 2 s)) ∧
    (17 < a.toNat ∨ 5 < b.toNat → exec (.getMgain a b) s = .next (errorEnd 2 s)) ∧
    (5 < a.toNat → exec (.getRoute a) s = .next (errorEnd 2 s)) ∧
    (4 < a.toNat → exec (.getMute a) s = .next (errorEnd 2 s)) ∧
    (4 < a.toNat → exec (.getAtt a) s = .next (errorEnd 2 s)) ∧
    (1 < a.toNat → exec (.getImp a) s = .next (errorEnd 2 s))

/-- R214: a NaN operand, of any sign and payload, ends SETATT, SETGAIN, CVTATT and CVTGAIN with NAN_ERR once the
range checks pass, and nothing else happens. -/
def Obligations.NanOperandEndsWithNanErr : Prop :=
  ∀ (s : State) (d : Dword) (k : Fin 5) (i : Fin 18) (b : Fin 6), NaNWord d →
    exec (.setatt (byteOf k.val) d) s = .next (errorEnd 3 s) ∧
    exec (.setgain (byteOf i.val) (byteOf b.val) d) s = .next (errorEnd 3 s) ∧
    exec (.cvtatt d) s = .next (errorEnd 3 s) ∧ exec (.cvtgain d) s = .next (errorEnd 3 s)

/-- R215: GET of an impedance switch or of the clock source before its first write ends with UNSET_ERR, and
nothing is written but STATUS and ERRSEEN. -/
def Obligations.UnsetSwitchEndsWithUnsetErr : Prop :=
  ∀ s : State,
    (∀ c : Fin 2, s.impValid c = false → exec (.getImp (byteOf c.val)) s = .next (errorEnd 4 s)) ∧
    (s.clkValid = false → exec .getClk s = .next (errorEnd 4 s))

/-- R219: an error is precise. A command that ends with a code from 1 to 5 leaves every shadow register as it
was, and with a code from 1 to 4 it has emitted no request; only TRANSPORT_ERR keeps a write. -/
def Obligations.ErrorsArePrecise : Prop :=
  ∀ (i : Instr) (s t : State), isCommand i = true → exec i s = .next t →
    (1 ≤ t.status.toNat → t.status.toNat ≤ 5 → SameShadow s t) ∧
    (1 ≤ t.status.toNat → t.status.toNat ≤ 4 → t = errorEnd t.status.toNat s)

/-- R32, R33: every command writes STATUS with a code of R210; when it is k ≠ 0, ERRSEEN gains bit k and no
result is delivered; when it is 0, ERRSEEN is unchanged. So no command clears a bit. -/
def Obligations.ErrseenIsSticky : Prop :=
  ∀ (i : Instr) (s t : State), isCommand i = true → exec i s = .next t →
    t.status.toNat ≤ 6 ∧
    (t.status = 0 → t.errseen = s.errseen) ∧
    (t.status ≠ 0 → t.errseen = s.errseen ||| (1#8 <<< t.status.toNat) ∧ t.result = .empty) ∧
    t.errseen &&& s.errseen = s.errseen

/-- R237 (3), I12, R241: take any instruction and state where it runs with no reply listed. If it emits a request
there, then with the host silent at its first request the step faults, and with a reset there it is refused;
if it emits none, the replies make no difference to it. -/
def Obligations.UnansweredRequestStopsTheStep : Prop :=
  ∀ (i : Instr) (s t : State), s.replies = [] → exec i s = .next t →
    (t.trace ≠ s.trace → ∀ rest,
      exec i { s with replies := .silence :: rest } = .fault .unanswered ∧
      exec i { s with replies := .reset :: rest } = .refused .resetInsideCommand) ∧
    (t.trace = s.trace → ∀ replies,
      exec i { s with replies := replies } = .next { t with replies := replies })

/-- R237 (3), R241: a step faults only where a reply it comes to, after successes only, is silence; and it is
refused for a reset only where such a reply is a reset. Ordinary data never stops it. -/
def Obligations.OnlyTheHostStopsACommand : Prop :=
  ∀ (i : Instr) (s : State),
    (exec i s = .fault .unanswered → ∃ k, AllSucceed k s ∧ s.replies[k]? = some .silence) ∧
    (exec i s = .refused .resetInsideCommand → ∃ k, AllSucceed k s ∧ s.replies[k]? = some .reset) ∧
    (isCommand i = true → (∃ t, exec i s = .next t) ∨ exec i s = .fault .unanswered ∨
      exec i s = .refused .resetInsideCommand)

/-! ## GET -/

/-- R150: GET answers the stored value, a tag or a bit zero-extended or the binary64 word exactly as stored; it
emits no request and writes no shadow register. (The errors of R150 are stated with R213 and R215.) -/
def Obligations.GetAnswersTheStoredValue : Prop :=
  ∀ s : State,
    (∀ i : Fin 18, exec (.getMsrc (byteOf i.val)) s =
      .next (okEnd (.word (BitVec.ofNat 64 (sourceTag (s.msrc.get i)))) s)) ∧
    (∀ (i : Fin 18) (b : Fin 6), exec (.getMgain (byteOf i.val) (byteOf b.val)) s =
      .next (okEnd (.word ((s.mgain.get i).get b)) s)) ∧
    (∀ d : Fin 6, exec (.getRoute (byteOf d.val)) s =
      .next (okEnd (.word (BitVec.ofNat 64 (busTag (s.route.get d)))) s)) ∧
    (∀ k : Fin 5, exec (.getMute (byteOf k.val)) s =
      .next (okEnd (.word (if s.mute.get k then 1 else 0)) s)) ∧
    (∀ k : Fin 5, exec (.getAtt (byteOf k.val)) s = .next (okEnd (.word (s.att.get k)) s)) ∧
    (∀ (c : Fin 2) (mode : ImpMode), s.imp.get c = some mode →
      exec (.getImp (byteOf c.val)) s =
        .next (okEnd (.word (BitVec.ofNat 64 (impModeTag mode))) s)) ∧
    (∀ clock : Clock, s.clk = some clock →
      exec .getClk s = .next (okEnd (.word (BitVec.ofNat 64 (clockTag clock))) s))

/-- R26, R136, R150: what SETATT and SETGAIN stored, GET gives back bit for bit, not the clamped value, whether
the request succeeded or not. -/
def Obligations.GetReturnsWhatWasSet : Prop :=
  ∀ (s t : State) (d : Dword), ¬ NaNWord d →
    (∀ k : Fin 5, exec (.setatt (byteOf k.val) d) s = .next t →
      exec (.getAtt (byteOf k.val)) t = .next (okEnd (.word d) t)) ∧
    (∀ (i : Fin 18) (b : Fin 6), exec (.setgain (byteOf i.val) (byteOf b.val) d) s = .next t →
      exec (.getMgain (byteOf i.val) (byteOf b.val)) t = .next (okEnd (.word d) t))

/-- R145, the whole rule: after two SETROUTE to one destination, both OK, it holds the second source whatever
the first was; and a source that already feeds another destination is not rejected. -/
def Obligations.RouterHoldsTheLastSource : Prop :=
  ∀ (d : Fin 6) (x y : MixBus) (s t u : State),
    (exec (.setroute (byteOf d.val) (byteOf (busTag x))) s = .next t → t.status = 0 →
      exec (.setroute (byteOf d.val) (byteOf (busTag y))) t = .next u → u.status = 0 → u.route.get d = y) ∧
    (∀ e : Fin 6, s.route.get e = x → Answered 1 s →
      ∃ v, exec (.setroute (byteOf d.val) (byteOf (busTag x))) s = .next v ∧ (v.status = 0 ∨ v.status = 6) ∧
        v.route.get d = x ∧ v.route.get e = x)

/-- R249: SETSRC changes no gain and SETGAIN changes no source, on every operand and every answer. -/
def Obligations.SourcesAndGainsAreIndependent : Prop :=
  ∀ (s t : State) (a b : Byte) (d : Dword),
    (exec (.setsrc a b) s = .next t → t.mgain = s.mgain) ∧
    (exec (.setgain a b d) s = .next t → t.msrc = s.msrc)

/-! ## The bulk commands -/

/-- R173, R174: FACTORY. If every request succeeds it ends with OK; and whenever it ends with OK, whatever the
answers were, the shadow registers are those of the table, and ATT, MUTE[0] and CLK are as before. -/
def Obligations.FactoryEndsInTheFactoryTopology : Prop :=
  ∀ s : State,
    (AllSucceed 138 s → ∃ t, exec .factory s = .next t ∧ t.status = 0) ∧
    (∀ t, exec .factory s = .next t → t.status = 0 →
      t.route = #v[.mix .m1, .mix .m2, .mix .m1, .mix .m2, .source .off, .source .off] ∧
      t.msrc = #v[.analog1, .analog2, .analog3, .analog4, .analog5, .analog6, .analog7, .analog8,
        .adat1, .adat2, .adat3, .adat4, .adat5, .adat6, .spdif1, .spdif2, .daw1, .daw2] ∧
      (∀ (i : Fin 18) (b : Fin 6), (t.mgain.get i).get b =
        if i.val % 2 = b.val then 0x0000000000000000 else 0xC069000000000000) ∧
      (∀ k : Fin 5, t.mute.get k = if k = 0 then s.mute.get 0 else false) ∧
      (∀ c : Fin 2, t.imp.get c = some .lineIn) ∧
      t.att = s.att ∧ t.clk = s.clk ∧ t.errseen = s.errseen ∧ t.result = .empty ∧
      t.replies = s.replies.drop 138 ∧ t.events = s.events ∧ t.order = s.order ∧
      t.trace.map Exchange.request = s.trace.map Exchange.request ++ factoryOps.map requestOf)

/-- R177: ZERO. If every request succeeds it ends with OK; and whenever it ends with OK every gain is -200.0,
every source and route is OFF, buses 1 to 4 are unmuted, and everything else is as before. -/
def Obligations.ZeroEndsSilentAndDisconnected : Prop :=
  ∀ s : State,
    (AllSucceed 136 s → ∃ t, exec .zero s = .next t ∧ t.status = 0) ∧
    (∀ t, exec .zero s = .next t → t.status = 0 →
      (∀ (i : Fin 18) (b : Fin 6), (t.mgain.get i).get b = 0xC069000000000000) ∧
      (∀ i : Fin 18, t.msrc.get i = .off) ∧ (∀ d : Fin 6, t.route.get d = .source .off) ∧
      (∀ k : Fin 5, t.mute.get k = if k = 0 then s.mute.get 0 else false) ∧
      t.att = s.att ∧ t.imp = s.imp ∧ t.clk = s.clk ∧ t.errseen = s.errseen ∧ t.result = .empty ∧
      t.replies = s.replies.drop 136 ∧ t.events = s.events ∧ t.order = s.order ∧
      t.trace.map Exchange.request = s.trace.map Exchange.request ++ zeroOps.map requestOf)

/-- R171, the whole rule: with the host answering, FACTORY and ZERO come to an end; they have then run their
first sub-commands, up to the first that met TransportError or all of them. Their shadow writes have happened,
that of the failing one too, and no later one; their requests are the ones emitted. The end is TRANSPORT_ERR
after a TransportError, and else OK with no result. -/
def Obligations.BulkStopsAtTheFirstTransportError : Prop :=
  ∀ (i : Instr) (ops : List SetOp), (i, ops) ∈ [(Instr.factory, factoryOps), (Instr.zero, zeroOps)] →
    ∀ s : State,
      (Answered ops.length s → ∃ t, exec i s = .next t) ∧
      ∀ t, exec i s = .next t → ∃ new : List Exchange,
        t.trace = s.trace ++ new ∧ 1 ≤ new.length ∧
        new.map Exchange.request = (ops.take new.length).map requestOf ∧
        SameShadow ((ops.take new.length).foldl (fun u op => commit op u) s) t ∧
        (∀ e ∈ new.dropLast, e.answer.isError = false) ∧
        t.replies = s.replies.drop new.length ∧ t.events = s.events ∧ t.order = s.order ∧
        t.result = .empty ∧
        if new.any fun e => e.answer.isError then t.status = 6 ∧ t.errseen = s.errseen ||| 0x40
        else new.length = ops.length ∧ t.status = 0 ∧ t.errseen = s.errseen

/-- R172, R176, R178: the sub-commands of FACTORY and ZERO, by their positions. -/
def Obligations.BulkProgramsListTheirSubcommands : Prop :=
  factoryOps.length = 138 ∧ zeroOps.length = 136 ∧
  (∀ (i : Fin 18) (b : Fin 6),
    factoryOps[24 + 6 * i.val + b.val]? = some (.gain i b (if i.val % 2 = b.val then unityDb else floorDb)) ∧
    zeroOps[6 * i.val + b.val]? = some (.gain i b floorDb) ∧
    zeroOps[108 + i.val]? = some (.src i .off)) ∧
  (∀ d : Fin 6, zeroOps[126 + d.val]? = some (.route d (.source .off))) ∧
  (∀ k : Fin 5, 1 ≤ k.val → factoryOps[131 + k.val]? = some (.mute k false) ∧
    zeroOps[131 + k.val]? = some (.mute k false)) ∧
  (∀ c : Fin 2, factoryOps[136 + c.val]? = some (.imp c .lineIn)) ∧
  factoryOps.take 6 = [.route 0 (.mix .m1), .route 1 (.mix .m2), .route 2 (.mix .m1), .route 3 (.mix .m2),
    .route 4 (.source .off), .route 5 (.source .off)] ∧
  (∀ i : Fin 18, factoryOps[6 + i.val]? = some (.src i ((#v[.analog1, .analog2, .analog3, .analog4, .analog5,
    .analog6, .analog7, .analog8, .adat1, .adat2, .adat3, .adat4, .adat5, .adat6, .spdif1, .spdif2, .daw1,
    .daw2] : Vector SignalSource 18).get i))) ∧
  dbOperand? 0x0000000000000000 = some unityDb ∧ dbOperand? 0xC069000000000000 = some floorDb

/-! ## The meters -/

/-- R192, R195-R197: METERPOLL whose three reads return blocks of the right lengths delivers the 32 readings in
the order input, DAW, mixer, each from its two bytes, the low one first; nothing but STATUS changes. -/
def Obligations.MeterpollDeliversTheSnapshot : Prop :=
  ∀ (s t : State) (sIn sDaw sMix : List Byte), MeterReads s sIn sDaw sMix t →
    sIn.length = 36 → sDaw.length = 12 → sMix.length = 16 →
    ∃ snap : Vector Dword 32,
      exec .meterpoll s = .next (okEnd (.snapshot snap) t) ∧
      (∀ n : Fin 18, snap[n.val]'(by omega) =
        meterSampleToDb (sIn.getD (2 * n.val + 1) 0 ++ sIn.getD (2 * n.val) 0)) ∧
      (∀ n : Fin 6, snap[18 + n.val]'(by omega) =
        meterSampleToDb (sDaw.getD (2 * n.val + 1) 0 ++ sDaw.getD (2 * n.val) 0)) ∧
      (∀ n : Fin 8, snap[24 + n.val]'(by omega) =
        meterSampleToDb (sMix.getD (2 * n.val + 1) 0 ++ sMix.getD (2 * n.val) 0))

/-- R217: when all three reads returned bytes and a block has the wrong length, longer or shorter, METERPOLL ends
with FORMAT_ERR and delivers no snapshot; the three requests have been emitted. -/
def Obligations.WrongBlockLengthEndsWithFormatErr : Prop :=
  ∀ (s t : State) (sIn sDaw sMix : List Byte), MeterReads s sIn sDaw sMix t →
    ¬ (sIn.length = 36 ∧ sDaw.length = 12 ∧ sMix.length = 16) →
    exec .meterpoll s = .next (errorEnd 5 t)

/-- R192, R216: METERPOLL ends with TRANSPORT_ERR at the first read that fails, and issues no later read. -/
def Obligations.MeterpollStopsAtTheFirstTransportError : Prop :=
  ∀ (s : State) (sIn sDaw : List Byte), Answered 3 s →
    (answerTo readIn s = .transportError →
      exec .meterpoll s = .next (errorEnd 6 (logged readIn s))) ∧
    (answerTo readIn s = .success sIn → answerTo readDaw (logged readIn s) = .transportError →
      exec .meterpoll s = .next (errorEnd 6 (logged readDaw (logged readIn s)))) ∧
    (answerTo readIn s = .success sIn → answerTo readDaw (logged readIn s) = .success sDaw →
      answerTo readMix (logged readDaw (logged readIn s)) = .transportError →
      exec .meterpoll s = .next (errorEnd 6 (logged readMix (logged readDaw (logged readIn s)))))

/-- R198: three all-zero blocks of the right lengths read minus infinity on all 32 channels, with OK, whatever
the shadow registers hold. -/
def Obligations.AllZeroBlocksReadMinusInfinity : Prop :=
  ∀ s t : State, MeterReads s (List.replicate 36 0) (List.replicate 12 0) (List.replicate 16 0) t →
    ∃ snap, exec .meterpoll s = .next (okEnd (.snapshot snap) t) ∧
      ∀ j : Fin 32, snap.get j = 0xFFF0000000000000

/-- R199: the readings are lane-wise: two snapshots agree in every entry whose two bytes agree; and every lane
is produced when the snapshot is. -/
def Obligations.SnapshotLanesAreIndependent : Prop :=
  ∀ (sIn sDaw sMix sIn' sDaw' sMix' : List Byte) (v v' : Vector Dword 32),
    decodeMeterSnapshot sIn sDaw sMix = some v → decodeMeterSnapshot sIn' sDaw' sMix' = some v' →
    ∀ j : Fin 32,
      (sIn ++ sDaw ++ sMix)[2 * j.val]? = (sIn' ++ sDaw' ++ sMix')[2 * j.val]? →
      (sIn ++ sDaw ++ sMix)[2 * j.val + 1]? = (sIn' ++ sDaw' ++ sMix')[2 * j.val + 1]? →
      v.get j = v'.get j

/-! ## The request kinds -/

/-- R79, R51, R55-R57: each well-formed request kind, run by itself, emits exactly its one request, with the fields
and payload of R79, and changes nothing else; that request decodes to the request kind it came from; and every
request of the address map is emitted by one. That a request kind can be run by itself is the model's choice
(log 8). -/
def Obligations.RequestKindEmitsItsOneRequest : Prop :=
  (∀ (s : State) (p0 p1 : Byte), Answered 1 s →
    (∀ (c : Fin 2) (mode : ImpMode), exec (.wImp (byteOf (c.val + 1)) mode) s =
      .next (logged (.out Config.setRequestCode (BitVec.ofNat 16 (0x0901 + c.val)) 0x0100
        [impCode mode, 0x00]) s)) ∧
    (∀ clock : Clock, exec (.wClk clock) s =
      .next (logged (.out Config.setRequestCode 0x0100 0x2800 [clkCode clock]) s)) ∧
    (∀ (k : Fin 5) (m : Fin 2), exec (.wMute (byteOf k.val) (byteOf m.val)) s =
      .next (logged (.out Config.setRequestCode (BitVec.ofNat 16 (0x0100 + k.val)) 0x0a00
        [byteOf m.val, 0x00]) s)) ∧
    (∀ k : Fin 5, attPayloadOk p0 p1 = true → exec (.wAtt (byteOf k.val) p0 p1) s =
      .next (logged (.out Config.setRequestCode (BitVec.ofNat 16 (0x0200 + k.val)) 0x0a00 [p0, p1]) s)) ∧
    (∀ (i : Fin 18) (src : SignalSource), exec (.wSrc (byteOf i.val) src) s =
      .next (logged (.out Config.setRequestCode (BitVec.ofNat 16 (0x0600 + i.val)) 0x3200
        [srcCode src, 0x00]) s)) ∧
    (∀ (i : Fin 18) (b : Fin 6), gainPayloadOk p0 p1 = true →
      exec (.wGain (BitVec.ofNat 5 i.val) (BitVec.ofNat 3 b.val) p0 p1) s =
        .next (logged (.out Config.setRequestCode (BitVec.ofNat 16 (0x0100 + 8 * i.val + b.val)) 0x3c00
          [p0, p1]) s)) ∧
    (∀ (d : Fin 6) (bus : MixBus), exec (.wRoute (byteOf d.val) bus) s =
      .next (logged (.out Config.setRequestCode (BitVec.ofNat 16 d.val) 0x3300
        [match bus with | .source src => srcCode src | .mix m => mixCode m, 0x00]) s)) ∧
    exec .wSave s = .next (logged (.out 0x03 0x005a 0x3c00 [0xa5]) s) ∧
    exec .wMtrIn s = .next (logged (.inp 0x03 0x0000 0x3c00 36) s) ∧
    exec .wMtrDaw s = .next (logged (.inp 0x03 0x0003 0x3c00 12) s) ∧
    exec .wMtrMix s = .next (logged (.inp 0x03 0x0001 0x3c00 16) s)) ∧
  (∀ (i : Instr) (s t : State), isCommand i = false → exec i s = .next t →
    ∃ r, t = logged r s ∧ decodeRequest r = .ok i) ∧
  (∀ r, InAddressMap r → ∃ i, isCommand i = false ∧ i.wellFormed = true ∧
    ∀ s, Answered 1 s → exec i s = .next (logged r s))

/-- R51: a request kind whose fields the address map does not hold is never emitted: the model refuses it. That
it is refused, rather than not decoded, is the model's choice (log 10). -/
def Obligations.RequestOutsideTheMapIsRefused : Prop :=
  ∀ (i : Instr) (s : State), i.wellFormed = false → exec i s = .refused .outsideAddressMap

/-! ## The whole machine -/

/-- R37: every step keeps the legal states, from every one of them: no gain or attenuation becomes a NaN, STATUS
stays a code, and bits 0 and 7 of ERRSEEN stay 0. -/
def Obligations.EveryStepKeepsLegal : Prop :=
  ∀ s t : State, s.Legal → step s = .next t → t.Legal

/-- R51: no step emits a request that the address map does not hold, from any state, and none leaves a request
order at the request port. -/
def Obligations.EveryStepEmitsInTheAddressMap : Prop :=
  ∀ s t : State, s.EmitsInMap → step s = .next t → t.EmitsInMap ∧ t.order = none

/-- R37, R51, R240: the state after reset is legal and has emitted nothing: the record of requests, which is the
model's own (log 13), is empty, and no request order stands (log 8). -/
def Obligations.ResetIsLegalAndHasEmittedNothing : Prop :=
  State.reset.Legal ∧ State.reset.EmitsInMap ∧ State.reset.trace = [] ∧ State.reset.order = none

/-- R34: no command's result depends on STATUS or ERRSEEN. With other values of the two, a step stops for the
same reason or answers the same state but for them; and a command leaves the same STATUS. -/
def Obligations.NothingDependsOnStatus : Prop :=
  ∀ (i : Instr) (s : State) (st es : Byte),
    match exec i s, exec i { s with status := st, errseen := es } with
    | .next t, .next u =>
      { u with status := 0, errseen := 0 } = { t with status := 0, errseen := 0 } ∧
        (isCommand i = true → u.status = t.status)
    | .fault f, .fault g => f = g
    | .refused f, .refused g => f = g
    | _, _ => False

/-- R151, R62: a step only adds to the record of requests. A set command or SAVE whose checks pass adds exactly
one request; a command that ends with a code from 1 to 4, whichever it is, a GET and a codec command add none. -/
def Obligations.RequestsEmittedByEachCommand : Prop :=
  ∀ (i : Instr) (s t : State), exec i s = .next t →
    (∃ new, t.trace = s.trace ++ new ∧ t.replies = s.replies.drop new.length ∧ new.length ≤ 138) ∧
    (∀ a b d, i ∈ [.setimp a b, .setclk b, .setmute a b, .setatt a d, .setsrc a b, .setgain a b d,
        .setroute a b, .save] → t.status = 0 ∨ t.status = 6 → t.trace.length = s.trace.length + 1) ∧
    (isCommand i = true → 1 ≤ t.status.toNat → t.status.toNat ≤ 4 →
      t.trace = s.trace ∧ t.replies = s.replies) ∧
    (∀ a b d, i ∈ [.getMsrc a, .getMgain a b, .getRoute a, .getMute a, .getAtt a, .getImp a, .getClk,
        .cvtatt d, .cvtgain d, .cvtmeter a b] → t.trace = s.trace ∧ t.replies = s.replies)

/-- R20, R36, R61: what an instruction does not own it leaves: the host's events and the request port always;
the shadow registers, for every instruction but the set commands and the bulk commands. -/
def Obligations.InstructionsLeaveWhatTheyDoNotOwn : Prop :=
  ∀ (i : Instr) (s t : State), exec i s = .next t →
    t.events = s.events ∧ t.order = s.order ∧
    ((∀ a b d, i ∉ [.setimp a b, .setclk b, .setmute a b, .setatt a d, .setsrc a b, .setgain a b d,
      .setroute a b, .factory, .zero]) → SameShadow s t)

/-- R55, R236: the answers a step records are the host's: where the run lists a reply to a request the step
emitted, that reply is an answer, and it is the one recorded (log 19). -/
def Obligations.RecordedAnswersAreTheListedReplies : Prop :=
  ∀ (i : Instr) (s t : State) (new : List Exchange), exec i s = .next t → t.trace = s.trace ++ new →
    ∀ k < new.length, ∀ (r : Reply) (e : Exchange),
      s.replies[k]? = some r → new[k]? = some e → r = .answer e.answer
end

