-- ==== Sys2Proof/Laws/Codec.lean ====
section
/-! SUPPORT. The NaN check, and what the operand of a dB command is. -/

namespace Sys2Proof.Machine

/-- The model's NaN check is the one on the fields of the word. -/
theorem isNaN_iff (d : Dword) : isNaN d = true ↔ NaNWord d := by
  simp only [isNaN, exponentOf, fractionOf, NaNWord, Bool.and_eq_true, beq_iff_eq, bne_iff_ne]
  constructor
  · rintro ⟨h1, h2⟩
    exact ⟨BitVec.eq_of_toNat_eq (by simpa using h1), fun h => h2 (by simp [h])⟩
  · rintro ⟨h1, h2⟩
    exact ⟨by simp [h1], fun h => h2 (BitVec.eq_of_toNat_eq (by simpa using h))⟩

/-- An operand keeps the bits of its word and has its exact value. -/
theorem dbOperand?_eq_some {d : Dword} {x : DbOperand} :
    dbOperand? d = some x ↔ x.bits = d ∧ exactValue d = some x.value := by
  unfold dbOperand?
  cases h : exactValue d with
  | none => simp
  | some v =>
    simp only [Option.map_some, Option.some.injEq]
    constructor
    · rintro rfl; exact ⟨rfl, rfl⟩
    · rintro ⟨h1, h2⟩; cases x; simp_all

theorem dbOperand?_of_exactValue {d : Dword} {v : ExactDb} (h : exactValue d = some v) :
    dbOperand? d = some ⟨d, v⟩ := by simp [dbOperand?, h]

end Sys2Proof.Machine
end

