-- ==== Sys2Proof/Laws/Decode.lean ====
section
/-! SUPPORT. The fields of a command word, and the word of its fields; the fields of a request's `value`, and the
`value` of its fields. -/

namespace Sys2Proof

variable (op sel : BitVec 4) (a b : Byte)

@[simp] theorem opOf_commandWord : opOf (commandWord op sel a b) = op := by
  unfold opOf commandWord; ext i hi; simp; grind

@[simp] theorem selOf_commandWord : selOf (commandWord op sel a b) = sel := by
  unfold selOf commandWord; ext i hi; simp; grind

@[simp] theorem aOf_commandWord : aOf (commandWord op sel a b) = a := by
  unfold aOf commandWord; ext i hi; simp; grind

@[simp] theorem bOf_commandWord : bOf (commandWord op sel a b) = b := by
  unfold bOf commandWord; ext i hi; simp; grind

@[simp] theorem zOf_commandWord : zOf (commandWord op sel a b) = 0 := by
  unfold zOf commandWord; ext i hi; simp; grind

/-! ## A word under the mask of its row -/

theorem append_and_append {v w : Nat} (x x' : BitVec v) (y y' : BitVec w) :
    (x ++ y) &&& (x' ++ y') = (x &&& x') ++ (y &&& y') := by
  ext i hi
  simp only [BitVec.getElem_and, BitVec.getElem_append]
  split <;> rfl

theorem commandWord_and (op' sel' : BitVec 4) (a' b' z : Byte) :
    commandWord op sel a b &&& (op' ++ sel' ++ a' ++ b' ++ z) =
      commandWord (op &&& op') (sel &&& sel') (a &&& a') (b &&& b') := by
  have h1 := append_and_append op op' sel sel'
  have h2 := append_and_append (op ++ sel) (op' ++ sel') a a'
  have h3 := append_and_append (op ++ sel ++ a) (op' ++ sel' ++ a') b b'
  have h4 := append_and_append (op ++ sel ++ a ++ b) (op' ++ sel' ++ a' ++ b') 0#8 z
  rw [h3, h2, h1, BitVec.zero_and] at h4
  exact h4

theorem and_ff (x : Byte) : x &&& 255#8 = x := BitVec.and_allOnes
theorem and_f (x : BitVec 4) : x &&& 15#4 = x := BitVec.and_allOnes

theorem commandWord_mask_ab : commandWord op sel a b &&& 0xFF0000FF = commandWord op sel 0 0 := by
  have h := commandWord_and op sel a b 0xF 0xF 0 0 0xFF
  simpa [and_f, and_ff] using h

theorem commandWord_mask_b : commandWord op sel a b &&& 0xFFFF00FF = commandWord op sel a 0 := by
  have h := commandWord_and op sel a b 0xF 0xF 0xFF 0 0xFF
  simpa [and_f, and_ff] using h

theorem commandWord_mask_a : commandWord op sel a b &&& 0xFF00FFFF = commandWord op sel 0 b := by
  have h := commandWord_and op sel a b 0xF 0xF 0 0xFF 0xFF
  simpa [and_f, and_ff] using h

theorem commandWord_mask_none : commandWord op sel a b &&& 0xFFFFFFFF = commandWord op sel a b :=
  BitVec.and_allOnes

theorem setWidth_append (hi lo : Byte) : (hi ++ lo : Half).setWidth 32 = (0#16 ++ hi ++ lo : Word) := by
  ext i hi
  simp
  grind

theorem value_mask (hi lo : Byte) :
    (hi ++ lo : Half).setWidth 32 &&& 0xFFFFFF00 = (hi ++ 0#8 : Half).setWidth 32 := by
  have h1 := append_and_append 0#16 0xFFFF#16 hi 0xFF#8
  have h2 := append_and_append (0#16 ++ hi) (0xFFFF#16 ++ 0xFF#8) lo 0#8
  rw [h1, BitVec.zero_and, BitVec.and_zero] at h2
  rw [setWidth_append, setWidth_append]
  rw [and_ff] at h2
  exact h2

theorem gainValue_mask (i : BitVec 5) (b : BitVec 3) :
    (0x01#8 ++ i ++ b : Half).setWidth 32 &&& 0xFFFFFF00 = 0x0100 := by
  have h : (0x01#8 ++ i ++ b : Half) = 0x01#8 ++ (i ++ b : Byte) := by
    ext k hk
    simp only [BitVec.getElem_append]
    grind
  rw [h]
  exact value_mask _ _

/-! ## The fields of a request's `value` -/

@[simp] theorem value_hi (hi lo : Byte) : (hi ++ lo : Half).extractLsb' 8 8 = hi := by
  ext k hk; simp; grind

@[simp] theorem value_lo (hi lo : Byte) : (hi ++ lo : Half).extractLsb' 0 8 = lo := by
  ext k hk; simp; grind

/-- A `value` is its two bytes. -/
theorem value_eq (v : Half) : v.extractLsb' 8 8 ++ v.extractLsb' 0 8 = v := by
  ext k hk; simp; grind

@[simp] theorem gainValue_hi (hi : Byte) (i : BitVec 5) (b : BitVec 3) :
    (hi ++ i ++ b : Half).extractLsb' 8 8 = hi := by
  ext k hk; simp; grind

@[simp] theorem gainValue_input (hi : Byte) (i : BitVec 5) (b : BitVec 3) :
    (hi ++ i ++ b : Half).extractLsb' 3 5 = i := by
  ext k hk; simp; grind

@[simp] theorem gainValue_bus (hi : Byte) (i : BitVec 5) (b : BitVec 3) :
    (hi ++ i ++ b : Half).extractLsb' 0 3 = b := by
  ext k hk; simp; grind

/-- The `value` of a gain request is its three fields. -/
theorem gainValue_eq (v : Half) : v.extractLsb' 8 8 ++ v.extractLsb' 3 5 ++ v.extractLsb' 0 3 = v := by
  ext k hk; simp; grind

end Sys2Proof
end

