-- ==== Sys2Proof/Laws/State.lean ====
section
/-! SUPPORT. One lemma for each field of the state and each update of Machine/Ops.lean, so that no proof
unfolds an update. -/

namespace Sys2Proof.Machine

variable (e : Status) (r : Result) (req : ControlRequest) (op : SetOp) (s : State)

@[simp] theorem raise_msrc : (raise e s).msrc = s.msrc := rfl
@[simp] theorem raise_mgain : (raise e s).mgain = s.mgain := rfl
@[simp] theorem raise_route : (raise e s).route = s.route := rfl
@[simp] theorem raise_mute : (raise e s).mute = s.mute := rfl
@[simp] theorem raise_att : (raise e s).att = s.att := rfl
@[simp] theorem raise_imp : (raise e s).imp = s.imp := rfl
@[simp] theorem raise_clk : (raise e s).clk = s.clk := rfl
@[simp] theorem raise_status : (raise e s).status = statusByte e := rfl
@[simp] theorem raise_errseen : (raise e s).errseen = errseenAfter s.errseen e := rfl
@[simp] theorem raise_result : (raise e s).result = .empty := rfl
@[simp] theorem raise_events : (raise e s).events = s.events := rfl
@[simp] theorem raise_replies : (raise e s).replies = s.replies := rfl
@[simp] theorem raise_trace : (raise e s).trace = s.trace := rfl
@[simp] theorem raise_order : (raise e s).order = s.order := rfl

@[simp] theorem finish_msrc : (finish r s).msrc = s.msrc := rfl
@[simp] theorem finish_mgain : (finish r s).mgain = s.mgain := rfl
@[simp] theorem finish_route : (finish r s).route = s.route := rfl
@[simp] theorem finish_mute : (finish r s).mute = s.mute := rfl
@[simp] theorem finish_att : (finish r s).att = s.att := rfl
@[simp] theorem finish_imp : (finish r s).imp = s.imp := rfl
@[simp] theorem finish_clk : (finish r s).clk = s.clk := rfl
@[simp] theorem finish_status : (finish r s).status = statusByte .ok := rfl
@[simp] theorem finish_errseen : (finish r s).errseen = s.errseen := rfl
@[simp] theorem finish_result : (finish r s).result = r := rfl
@[simp] theorem finish_events : (finish r s).events = s.events := rfl
@[simp] theorem finish_replies : (finish r s).replies = s.replies := rfl
@[simp] theorem finish_trace : (finish r s).trace = s.trace := rfl
@[simp] theorem finish_order : (finish r s).order = s.order := rfl

@[simp] theorem emit_answer : (emit req s).1 = answerTo req s := rfl
@[simp] theorem emit_msrc : (emit req s).2.msrc = s.msrc := rfl
@[simp] theorem emit_mgain : (emit req s).2.mgain = s.mgain := rfl
@[simp] theorem emit_route : (emit req s).2.route = s.route := rfl
@[simp] theorem emit_mute : (emit req s).2.mute = s.mute := rfl
@[simp] theorem emit_att : (emit req s).2.att = s.att := rfl
@[simp] theorem emit_imp : (emit req s).2.imp = s.imp := rfl
@[simp] theorem emit_clk : (emit req s).2.clk = s.clk := rfl
@[simp] theorem emit_status : (emit req s).2.status = s.status := rfl
@[simp] theorem emit_errseen : (emit req s).2.errseen = s.errseen := rfl
@[simp] theorem emit_result : (emit req s).2.result = s.result := rfl
@[simp] theorem emit_events : (emit req s).2.events = s.events := rfl
@[simp] theorem emit_replies : (emit req s).2.replies = s.replies.tail := rfl
@[simp] theorem emit_trace : (emit req s).2.trace = s.trace ++ [⟨req, answerTo req s⟩] := rfl
@[simp] theorem emit_order : (emit req s).2.order = s.order := rfl

@[simp] theorem resetBlock_msrc : (resetBlock s).msrc = State.reset.msrc := rfl
@[simp] theorem resetBlock_mgain : (resetBlock s).mgain = State.reset.mgain := rfl
@[simp] theorem resetBlock_route : (resetBlock s).route = State.reset.route := rfl
@[simp] theorem resetBlock_mute : (resetBlock s).mute = State.reset.mute := rfl
@[simp] theorem resetBlock_att : (resetBlock s).att = State.reset.att := rfl
@[simp] theorem resetBlock_imp : (resetBlock s).imp = State.reset.imp := rfl
@[simp] theorem resetBlock_clk : (resetBlock s).clk = State.reset.clk := rfl
@[simp] theorem resetBlock_status : (resetBlock s).status = State.reset.status := rfl
@[simp] theorem resetBlock_errseen : (resetBlock s).errseen = State.reset.errseen := rfl
@[simp] theorem resetBlock_result : (resetBlock s).result = State.reset.result := rfl
@[simp] theorem resetBlock_events : (resetBlock s).events = s.events := rfl
@[simp] theorem resetBlock_replies : (resetBlock s).replies = s.replies := rfl
@[simp] theorem resetBlock_trace : (resetBlock s).trace = s.trace := rfl
@[simp] theorem resetBlock_order : (resetBlock s).order = s.order := rfl

/-! A commit writes one shadow register, and never STATUS, ERRSEEN or a port. -/

@[simp] theorem commit_status : (commit op s).status = s.status := by cases op <;> rfl
@[simp] theorem commit_errseen : (commit op s).errseen = s.errseen := by cases op <;> rfl
@[simp] theorem commit_result : (commit op s).result = s.result := by cases op <;> rfl
@[simp] theorem commit_events : (commit op s).events = s.events := by cases op <;> rfl
@[simp] theorem commit_replies : (commit op s).replies = s.replies := by cases op <;> rfl
@[simp] theorem commit_trace : (commit op s).trace = s.trace := by cases op <;> rfl
@[simp] theorem commit_order : (commit op s).order = s.order := by cases op <;> rfl

@[simp] theorem commit_imp_msrc (c : Fin 2) (m : ImpMode) :
    (commit (.imp c m) s).msrc = s.msrc := rfl
@[simp] theorem commit_imp_mgain (c : Fin 2) (m : ImpMode) :
    (commit (.imp c m) s).mgain = s.mgain := rfl
@[simp] theorem commit_imp_route (c : Fin 2) (m : ImpMode) :
    (commit (.imp c m) s).route = s.route := rfl
@[simp] theorem commit_imp_mute (c : Fin 2) (m : ImpMode) :
    (commit (.imp c m) s).mute = s.mute := rfl
@[simp] theorem commit_imp_att (c : Fin 2) (m : ImpMode) :
    (commit (.imp c m) s).att = s.att := rfl
@[simp] theorem commit_imp_imp (c : Fin 2) (m : ImpMode) :
    (commit (.imp c m) s).imp = s.imp.set c (some m) := rfl
@[simp] theorem commit_imp_clk (c : Fin 2) (m : ImpMode) :
    (commit (.imp c m) s).clk = s.clk := rfl

@[simp] theorem commit_clk_msrc (k : Clock) :
    (commit (.clk k) s).msrc = s.msrc := rfl
@[simp] theorem commit_clk_mgain (k : Clock) :
    (commit (.clk k) s).mgain = s.mgain := rfl
@[simp] theorem commit_clk_route (k : Clock) :
    (commit (.clk k) s).route = s.route := rfl
@[simp] theorem commit_clk_mute (k : Clock) :
    (commit (.clk k) s).mute = s.mute := rfl
@[simp] theorem commit_clk_att (k : Clock) :
    (commit (.clk k) s).att = s.att := rfl
@[simp] theorem commit_clk_imp (k : Clock) :
    (commit (.clk k) s).imp = s.imp := rfl
@[simp] theorem commit_clk_clk (k : Clock) :
    (commit (.clk k) s).clk = some k := rfl

@[simp] theorem commit_mute_msrc (k : Fin 5) (b : Bool) :
    (commit (.mute k b) s).msrc = s.msrc := rfl
@[simp] theorem commit_mute_mgain (k : Fin 5) (b : Bool) :
    (commit (.mute k b) s).mgain = s.mgain := rfl
@[simp] theorem commit_mute_route (k : Fin 5) (b : Bool) :
    (commit (.mute k b) s).route = s.route := rfl
@[simp] theorem commit_mute_mute (k : Fin 5) (b : Bool) :
    (commit (.mute k b) s).mute = s.mute.set k b := rfl
@[simp] theorem commit_mute_att (k : Fin 5) (b : Bool) :
    (commit (.mute k b) s).att = s.att := rfl
@[simp] theorem commit_mute_imp (k : Fin 5) (b : Bool) :
    (commit (.mute k b) s).imp = s.imp := rfl
@[simp] theorem commit_mute_clk (k : Fin 5) (b : Bool) :
    (commit (.mute k b) s).clk = s.clk := rfl

@[simp] theorem commit_att_msrc (k : Fin 5) (d : DbOperand) :
    (commit (.att k d) s).msrc = s.msrc := rfl
@[simp] theorem commit_att_mgain (k : Fin 5) (d : DbOperand) :
    (commit (.att k d) s).mgain = s.mgain := rfl
@[simp] theorem commit_att_route (k : Fin 5) (d : DbOperand) :
    (commit (.att k d) s).route = s.route := rfl
@[simp] theorem commit_att_mute (k : Fin 5) (d : DbOperand) :
    (commit (.att k d) s).mute = s.mute := rfl
@[simp] theorem commit_att_att (k : Fin 5) (d : DbOperand) :
    (commit (.att k d) s).att = s.att.set k d.bits := rfl
@[simp] theorem commit_att_imp (k : Fin 5) (d : DbOperand) :
    (commit (.att k d) s).imp = s.imp := rfl
@[simp] theorem commit_att_clk (k : Fin 5) (d : DbOperand) :
    (commit (.att k d) s).clk = s.clk := rfl

@[simp] theorem commit_src_msrc (i : Fin 18) (x : SignalSource) :
    (commit (.src i x) s).msrc = s.msrc.set i x := rfl
@[simp] theorem commit_src_mgain (i : Fin 18) (x : SignalSource) :
    (commit (.src i x) s).mgain = s.mgain := rfl
@[simp] theorem commit_src_route (i : Fin 18) (x : SignalSource) :
    (commit (.src i x) s).route = s.route := rfl
@[simp] theorem commit_src_mute (i : Fin 18) (x : SignalSource) :
    (commit (.src i x) s).mute = s.mute := rfl
@[simp] theorem commit_src_att (i : Fin 18) (x : SignalSource) :
    (commit (.src i x) s).att = s.att := rfl
@[simp] theorem commit_src_imp (i : Fin 18) (x : SignalSource) :
    (commit (.src i x) s).imp = s.imp := rfl
@[simp] theorem commit_src_clk (i : Fin 18) (x : SignalSource) :
    (commit (.src i x) s).clk = s.clk := rfl

@[simp] theorem commit_gain_msrc (i : Fin 18) (c : Fin 6) (d : DbOperand) :
    (commit (.gain i c d) s).msrc = s.msrc := rfl
@[simp] theorem commit_gain_mgain (i : Fin 18) (c : Fin 6) (d : DbOperand) :
    (commit (.gain i c d) s).mgain = s.mgain.set i ((s.mgain.get i).set c d.bits) := rfl
@[simp] theorem commit_gain_route (i : Fin 18) (c : Fin 6) (d : DbOperand) :
    (commit (.gain i c d) s).route = s.route := rfl
@[simp] theorem commit_gain_mute (i : Fin 18) (c : Fin 6) (d : DbOperand) :
    (commit (.gain i c d) s).mute = s.mute := rfl
@[simp] theorem commit_gain_att (i : Fin 18) (c : Fin 6) (d : DbOperand) :
    (commit (.gain i c d) s).att = s.att := rfl
@[simp] theorem commit_gain_imp (i : Fin 18) (c : Fin 6) (d : DbOperand) :
    (commit (.gain i c d) s).imp = s.imp := rfl
@[simp] theorem commit_gain_clk (i : Fin 18) (c : Fin 6) (d : DbOperand) :
    (commit (.gain i c d) s).clk = s.clk := rfl

@[simp] theorem commit_route_msrc (d : Fin 6) (x : MixBus) :
    (commit (.route d x) s).msrc = s.msrc := rfl
@[simp] theorem commit_route_mgain (d : Fin 6) (x : MixBus) :
    (commit (.route d x) s).mgain = s.mgain := rfl
@[simp] theorem commit_route_route (d : Fin 6) (x : MixBus) :
    (commit (.route d x) s).route = s.route.set d x := rfl
@[simp] theorem commit_route_mute (d : Fin 6) (x : MixBus) :
    (commit (.route d x) s).mute = s.mute := rfl
@[simp] theorem commit_route_att (d : Fin 6) (x : MixBus) :
    (commit (.route d x) s).att = s.att := rfl
@[simp] theorem commit_route_imp (d : Fin 6) (x : MixBus) :
    (commit (.route d x) s).imp = s.imp := rfl
@[simp] theorem commit_route_clk (d : Fin 6) (x : MixBus) :
    (commit (.route d x) s).clk = s.clk := rfl

/-- The answer to a request depends on the replies and the record alone. -/
theorem answerTo_congr (t : State) (h : t.replies = s.replies) (h' : t.trace = s.trace) :
    answerTo req t = answerTo req s := by simp [answerTo, h, h']

@[simp] theorem answerTo_raise : answerTo req (raise e s) = answerTo req s := answerTo_congr _ _ _ (by simp) (by simp)

@[simp] theorem answerTo_finish : answerTo req (finish r s) = answerTo req s := answerTo_congr _ _ _ (by simp) (by simp)

@[simp] theorem answerTo_commit : answerTo req (commit op s) = answerTo req s := answerTo_congr _ _ _ (by simp) (by simp)

end Sys2Proof.Machine
end

