-- ==== Sys2Proof/Laws/Ops.lean ====
section
/-! SUPPORT. What each shared operation can do, said once. -/

namespace Sys2Proof.Machine

/-! ## require -/

@[simp] theorem require_some {α : Type} (v : α) (e : Status) (s : State) (k : α → StepOutcome) :
    require (some v) e s k = k v := rfl

@[simp] theorem require_none {α : Type} (e : Status) (s : State) (k : α → StepOutcome) :
    require none e s k = .next (raise e s) := rfl

/-- All `require` can do: the operand names something and the command goes on, or it ends with the error. -/
theorem require_cases {α : Type} {x : Option α} {e : Status} {s : State} {k : α → StepOutcome}
    {o : StepOutcome} (h : require x e s k = o) :
    (∃ v, x = some v ∧ k v = o) ∨ (x = none ∧ o = .next (raise e s)) := by
  cases x with
  | some v => exact .inl ⟨v, rfl, h⟩
  | none => exact .inr ⟨rfl, h.symm⟩

/-! ## conduct -/

/-- All `conduct` can do when it answers a next state. -/
theorem conduct_next {n : Nat} {s done t : State} (h : conduct n s done = .next t) :
    stopsWithin n s.replies = none ∧ t = done := by
  unfold conduct at h
  split at h
  · cases h
  · cases h
  · exact ⟨‹_›, by cases h; rfl⟩

/-- `conduct` when every request is answered. -/
theorem conduct_answered {n : Nat} {s done : State} (h : stopsWithin n s.replies = none) :
    conduct n s done = .next done := by simp [conduct, h]

theorem conduct_fault_iff {n : Nat} {s done : State} (f : Fault) :
    conduct n s done = .fault f ↔ stopsWithin n s.replies = some .silence := by
  cases f
  unfold conduct
  split <;> simp_all

theorem conduct_refused_iff {n : Nat} {s done : State} (r : Refusal) :
    conduct n s done = .refused r ↔ stopsWithin n s.replies = some .reset ∧ r = .resetInsideCommand := by
  unfold conduct
  split <;> simp_all [eq_comm (a := r)]

/-! ## stopsWithin -/

@[simp] theorem stopsWithin_zero (rs : List Reply) : stopsWithin 0 rs = none := by cases rs <;> rfl

@[simp] theorem stopsWithin_nil (n : Nat) : stopsWithin n [] = none := by cases n <;> rfl

@[simp] theorem stopsWithin_error (n : Nat) (rs : List Reply) :
    stopsWithin n (.answer .transportError :: rs) = none := by cases n <;> rfl

@[simp] theorem stopsWithin_success (n : Nat) (b : List Byte) (rs : List Reply) :
    stopsWithin (n + 1) (.answer (.success b) :: rs) = stopsWithin n rs := rfl

@[simp] theorem stopsWithin_silence (n : Nat) (rs : List Reply) :
    stopsWithin (n + 1) (.silence :: rs) = some .silence := rfl

@[simp] theorem stopsWithin_reset (n : Nat) (rs : List Reply) :
    stopsWithin (n + 1) (.reset :: rs) = some .reset := rfl

/-- The reply that stops a command. -/
def stopReply : Stop → Reply
  | .silence => .silence
  | .reset => .reset

/-- A stop is the first reply that is no success, and lies among the first `n`. -/
theorem stopsWithin_some {n : Nat} {rs : List Reply} {st : Stop} (h : stopsWithin n rs = some st) :
    ∃ k < n, (∀ j < k, ∃ b, rs[j]? = some (.answer (.success b))) ∧
      rs[k]? = some (stopReply st) := by
  induction n generalizing rs with
  | zero => simp at h
  | succ n ih =>
    match rs with
    | [] => simp at h
    | .answer .transportError :: _ => simp at h
    | .answer (.success b) :: rest =>
      obtain ⟨k, hk, hs, hr⟩ := ih (rs := rest) (by simpa using h)
      refine ⟨k + 1, by omega, ?_, by simpa using hr⟩
      intro j hj
      cases j with
      | zero => exact ⟨b, rfl⟩
      | succ j => simpa using hs j (by omega)
    | .silence :: _ =>
      cases (by simpa using h : Stop.silence = st)
      exact ⟨0, by omega, by simp, by simp [stopReply]⟩
    | .reset :: _ =>
      cases (by simpa using h : Stop.reset = st)
      exact ⟨0, by omega, by simp, by simp [stopReply]⟩

/-! ## Requests -/

@[simp] theorem answerTo_listed (req : ControlRequest) (s : State) (a : Answer) (rest : List Reply)
    (h : s.replies = .answer a :: rest) : answerTo req s = a := by simp [answerTo, h]

theorem settle_eq (x : Answer × State) :
    settle x = if x.1.isError then raise .transportErr x.2 else finish .empty x.2 := rfl

/-! ## Programs of set commands -/

@[simp] theorem runOps_nil (s : State) : runOps [] s = finish .empty s := rfl

theorem runOps_cons (op : SetOp) (rest : List SetOp) (s : State) :
    runOps (op :: rest) s =
      if (answerTo (requestOf op) s).isError then raise .transportErr (emit (requestOf op) (commit op s)).2
      else runOps rest (emit (requestOf op) (commit op s)).2 := by
  simp [runOps, perform]

/-- One set command: its commit, its request, and its end. -/
theorem runOps_one (op : SetOp) (s : State) :
    runOps [op] s = settle (emit (requestOf op) (commit op s)) := by
  simp [runOps, perform, settle]

/-- All a program of set commands can leave at the ports. -/
theorem runOps_frame (ops : List SetOp) (s : State) :
    (runOps ops s).events = s.events ∧ (runOps ops s).order = s.order ∧ (runOps ops s).result = .empty ∧
      ((runOps ops s).status = statusByte .ok ∧ (runOps ops s).errseen = s.errseen ∨
        (runOps ops s).status = statusByte .transportErr ∧
          (runOps ops s).errseen = errseenAfter s.errseen .transportErr) := by
  induction ops generalizing s with
  | nil => simp
  | cons op rest ih =>
    rw [runOps_cons]
    split
    · simp
    · simpa using ih (emit (requestOf op) (commit op s)).2

end Sys2Proof.Machine
end

