-- ==== Sys2Proof/Laws/Exec.lean ====
section
/-! SUPPORT. What the meaning of an instruction can answer, said once for all commands and once for all
request kinds; and the state METERPOLL leaves. -/

namespace Sys2Proof.Machine

/-- The five shapes of a command's step: an error of its checks, a result, a program of set commands, SAVE,
METERPOLL. -/
inductive CommandShape (s : State) : StepOutcome → Prop
  | error (e : Status) (h : e = .rangeErr ∨ e = .nanErr ∨ e = .unsetErr) : CommandShape s (.next (raise e s))
  | answer (r : Result) : CommandShape s (.next (finish r s))
  | ops (ops : List SetOp) (h : 1 ≤ ops.length ∧ ops.length ≤ 138) : CommandShape s (conductOps ops s)
  | save : CommandShape s (conduct 1 s (settle (emit saveRequest s)))
  | poll : CommandShape s (conduct 3 s (pollMeters s))

theorem CommandShape.of_require {α : Type} {x : Option α} {e : Status} {s : State} {k : α → StepOutcome}
    (h : e = .rangeErr ∨ e = .nanErr ∨ e = .unsetErr) (hk : ∀ v, CommandShape s (k v)) :
    CommandShape s (require x e s k) := by
  cases x with
  | none => exact .error e h
  | some v => exact hk v

theorem factoryOps_length : factoryOps.length = 138 := by decide +kernel
theorem zeroOps_length : zeroOps.length = 136 := by decide +kernel

/-- Every command's step has one of the five shapes. -/
theorem exec_command_shape (i : Instr) (s : State) (h : isCommand i = true) : CommandShape s (exec i s) := by
  have one : ∀ op : SetOp, CommandShape s (conductOps [op] s) := fun op => .ops _ (by simp)
  cases i
  case save => exact .save
  case meterpoll => exact .poll
  case factory => exact .ops factoryOps (by rw [factoryOps_length]; omega)
  case zero => exact .ops zeroOps (by rw [zeroOps_length]; omega)
  case cvtmeter => exact .answer _
  case wImp | wClk | wMute | wAtt | wSrc | wGain | wRoute | wSave | wMtrIn | wMtrDaw | wMtrMix =>
    simp [isCommand, encode] at h
  all_goals
    refine .of_require (by simp) fun _ => ?_
    first
      | exact .answer _
      | exact one _
      | refine .of_require (by simp) fun _ => ?_
        first
          | exact .answer _
          | exact one _
          | exact .of_require (by simp) fun _ => one _

/-- Every request kind's step is one request, if the address map holds it, and else a refusal. -/
theorem exec_request_shape (i : Instr) (s : State) (h : isCommand i = false) :
    ∃ req, exec i s = issue i.wellFormed req s := by
  cases i
  case wImp | wClk | wMute | wAtt | wSrc | wGain | wRoute | wSave | wMtrIn | wMtrDaw | wMtrMix => exact ⟨_, rfl⟩
  all_goals simp [isCommand, encode] at h

theorem SameShadow.rfl' {s : State} : SameShadow s s := ⟨rfl, rfl, rfl, rfl, rfl, rfl, rfl⟩

theorem SameShadow.of_emit {s : State} (req : ControlRequest) : SameShadow s (emit req s).2 :=
  ⟨rfl, rfl, rfl, rfl, rfl, rfl, rfl⟩

theorem SameShadow.trans {s t u : State} (h : SameShadow s t) (h' : SameShadow t u) : SameShadow s u :=
  ⟨h'.msrc.trans h.msrc, h'.mgain.trans h.mgain, h'.route.trans h.route, h'.mute.trans h.mute,
    h'.att.trans h.att, h'.imp.trans h.imp, h'.clk.trans h.clk⟩

theorem SameShadow.of_raise {s : State} (e : Status) : SameShadow s (raise e s) :=
  ⟨rfl, rfl, rfl, rfl, rfl, rfl, rfl⟩

theorem SameShadow.of_finish {s : State} (r : Result) : SameShadow s (finish r s) :=
  ⟨rfl, rfl, rfl, rfl, rfl, rfl, rfl⟩

/-- What METERPOLL leaves: `t`, the state once the reads it made are answered, ended with TRANSPORT_ERR, with
FORMAT_ERR, or with the snapshot. -/
theorem pollMeters_cases (s : State) :
    ∃ t : State, (t = (emit inputBlockRequest s).2 ∨
        t = (emit dawBlockRequest (emit inputBlockRequest s).2).2 ∨
        t = (emit mixerBlockRequest (emit dawBlockRequest (emit inputBlockRequest s).2).2).2) ∧
      (pollMeters s = raise .transportErr t ∨ pollMeters s = raise .formatErr t ∨
        ∃ v, pollMeters s = finish (.snapshot v) t) := by
  unfold pollMeters readBlock
  dsimp only
  split
  · exact ⟨_, .inl rfl, .inl rfl⟩
  split
  · exact ⟨_, .inr (.inl rfl), .inl rfl⟩
  split
  · exact ⟨_, .inr (.inr rfl), .inl rfl⟩
  unfold finishSnapshot
  split
  · exact ⟨_, .inr (.inr rfl), .inr (.inr ⟨_, rfl⟩)⟩
  · exact ⟨_, .inr (.inr rfl), .inr (.inl rfl)⟩

/-- The ports after the reads of METERPOLL, whichever were made. -/
theorem meterReads_frame {s t : State} (h : t = (emit inputBlockRequest s).2 ∨
      t = (emit dawBlockRequest (emit inputBlockRequest s).2).2 ∨
      t = (emit mixerBlockRequest (emit dawBlockRequest (emit inputBlockRequest s).2).2).2) :
    SameShadow s t ∧ t.status = s.status ∧ t.errseen = s.errseen ∧ t.events = s.events ∧ t.order = s.order ∧
      ∃ new : List Exchange, t.trace = s.trace ++ new ∧ t.replies = s.replies.drop new.length ∧
        1 ≤ new.length ∧ new.length ≤ 3 := by
  rcases h with rfl | rfl | rfl
  · exact ⟨.of_emit _, rfl, rfl, rfl, rfl, _, rfl, by simp, by simp, by simp⟩
  · refine ⟨(SameShadow.of_emit _).trans (.of_emit _), rfl, rfl, rfl, rfl,
      [_] ++ [_], (List.append_assoc s.trace _ _), ?_, by simp, by simp⟩
    simp only [emit_replies]; cases s.replies with | nil => rfl | cons x xs => cases xs <;> rfl
  · refine ⟨((SameShadow.of_emit _).trans (.of_emit _)).trans (.of_emit _), rfl, rfl, rfl, rfl,
      [_] ++ ([_] ++ [_]), (by simp only [emit_trace, List.append_assoc]; rfl), ?_, by simp, by simp⟩
    simp only [emit_replies]
    cases s.replies with
    | nil => rfl
    | cons x xs => cases xs with
      | nil => rfl
      | cons y ys => cases ys <;> rfl

/-- Folding commits keeps two states with the same shadow registers alike. -/
theorem SameShadow.foldl_commit (ops : List SetOp) {u v : State} (h : SameShadow u v) :
    SameShadow (ops.foldl (fun u op => commit op u) u) (ops.foldl (fun u op => commit op u) v) := by
  induction ops generalizing u v with
  | nil => exact h
  | cons op rest ih =>
    refine ih ?_
    obtain ⟨h1, h2, h3, h4, h5, h6, h7⟩ := h
    cases op <;> exact ⟨by simp [h1], by simp [h2], by simp [h3], by simp [h4], by simp [h5], by simp [h6],
      by simp [h7]⟩

/-- All a program of set commands does: it performs its first `n` operations, `n` being all of them if it ends
with OK; the shadow registers are those commits; the record gains those requests with the answers the replies
list; and every reply it used but the last was no TransportError. -/
theorem runOps_run (ops : List SetOp) (s : State) :
    ∃ n ≤ ops.length, ∃ new : List Exchange,
      (runOps ops s).trace = s.trace ++ new ∧ new.length = n ∧
      (runOps ops s).replies = s.replies.drop n ∧
      (∀ k < n, ∀ a e, s.replies[k]? = some (.answer a) → new[k]? = some e → a = e.answer) ∧
      new.map Exchange.request = (ops.take n).map requestOf ∧
      SameShadow ((ops.take n).foldl (fun u op => commit op u) s) (runOps ops s) ∧
      (1 ≤ ops.length → 1 ≤ n) ∧
      ((runOps ops s).status = 0 → n = ops.length) ∧
      (∀ j, j + 1 < n → ∀ a, s.replies[j]? = some (.answer a) → a.isError = false) := by
  have first : ∀ (req : ControlRequest) (a : Answer), s.replies[0]? = some (.answer a) → answerTo req s = a := by
    intro req a h
    cases hr : s.replies with
    | nil => simp [hr] at h
    | cons x xs => simp [hr] at h; simp [answerTo, hr, h]
  induction ops generalizing s with
  | nil => exact ⟨0, by simp, [], by simp, rfl, by simp, by simp, rfl, .of_finish _, by simp, by simp, by simp⟩
  | cons op rest ih =>
    rw [runOps_cons]
    split
    · refine ⟨1, by simp, [⟨requestOf op, answerTo (requestOf op) s⟩], by simp, rfl, by simp, ?_, rfl,
        (SameShadow.of_emit _).trans (.of_raise _), by simp, by simp [statusByte, statusCode], by omega⟩
      intro k hk a e h1 h2
      obtain rfl : k = 0 := by omega
      simp at h2; subst h2
      exact (first _ a h1).symm
    · rename_i hE
      have first' : ∀ (req : ControlRequest) (a : Answer),
          (emit (requestOf op) (commit op s)).2.replies[0]? = some (.answer a) →
          answerTo req (emit (requestOf op) (commit op s)).2 = a := by
        intro req a h
        cases hr : (emit (requestOf op) (commit op s)).2.replies with
        | nil => rw [hr] at h; simp at h
        | cons x xs => rw [hr] at h; simp at h; simp only [answerTo, hr, h]
      obtain ⟨n, hn, new, h1, h2, h3, h4, h5, h6, h7, h8, h9⟩ := ih (emit (requestOf op) (commit op s)).2 first'
      refine ⟨n + 1, by simp; omega, ⟨requestOf op, answerTo (requestOf op) s⟩ :: new, by simp [h1],
        by simp [h2], by simp [h3], ?_, by simp [h5], ?_, by simp, by intro h; simp [h8 h], ?_⟩
      · intro k hk a e g1 g2
        cases k with
        | zero => simp at g2; subst g2; exact (first _ a g1).symm
        | succ k => exact h4 k (by omega) a e (by simpa using g1) (by simpa using g2)
      · simp only [List.take_succ_cons, List.foldl_cons]
        exact SameShadow.trans (.foldl_commit _ (.of_emit _)) h6
      · intro j hj a ha
        cases j with
        | zero => have := first (requestOf op) a ha; simpa [this] using hE
        | succ j => exact h9 j (by omega) a (by simpa using ha)

end Sys2Proof.Machine
end

