-- ==== Sys2Proof/Laws/Meter.lean ====
section
/-! SUPPORT. The logarithms the meter table is computed from (log 7): they never fall, and they are right to a
unit of their last bit. -/

namespace Sys2Proof.Machine

theorem logFraction_acc (n x acc : Nat) : logFraction n x acc = acc * 2 ^ n + logFraction n x 0 := by
  induction n generalizing x acc with
  | zero => simp [logFraction]
  | succ n ih =>
    simp only [logFraction]
    split
    · rw [ih, ih _ (2 * 0)]; ring
    · rw [ih, ih _ (2 * 0 + 1)]; ring

theorem logFraction_lt (n x : Nat) : logFraction n x 0 < 2 ^ n := by
  induction n generalizing x with
  | zero => simp [logFraction]
  | succ n ih =>
    simp only [logFraction]
    split
    · have := ih ((x * x) >>> logPrecision); rw [logFraction_acc]; omega
    · have := ih ((x * x) >>> logPrecision >>> 1); rw [logFraction_acc]; omega

theorem logFraction_mono (n : Nat) {x y : Nat} (h : x ≤ y) : logFraction n x 0 ≤ logFraction n y 0 := by
  induction n generalizing x y with
  | zero => simp [logFraction]
  | succ n ih =>
    have hs : (x * x) >>> logPrecision ≤ (y * y) >>> logPrecision := by
      rw [Nat.shiftRight_eq_div_pow, Nat.shiftRight_eq_div_pow]
      exact Nat.div_le_div_right (Nat.mul_le_mul h h)
    have hs' : (x * x) >>> logPrecision >>> 1 ≤ (y * y) >>> logPrecision >>> 1 := by
      rw [Nat.shiftRight_eq_div_pow _ 1, Nat.shiftRight_eq_div_pow _ 1]
      exact Nat.div_le_div_right hs
    simp only [logFraction]
    split <;> split
    · exact ih hs
    · have := logFraction_lt n ((x * x) >>> logPrecision)
      rw [logFraction_acc _ _ (2 * 0 + 1), Nat.mul_zero]
      omega
    · omega
    · rw [logFraction_acc, logFraction_acc _ _ (2 * 0 + 1)]
      have := ih hs'
      omega

/-- The number whose logarithm `logTwo m` takes is in [1, 2), in units of 2^-160. -/
theorem logTwo_argument {m : Nat} (h1 : 1 ≤ m) (h2 : m < 2 ^ 160) :
    Nat.log2 m < 160 ∧ m <<< (logPrecision - Nat.log2 m) * 2 ^ Nat.log2 m = m * 2 ^ 160 ∧
      2 ^ 160 ≤ m <<< (logPrecision - Nat.log2 m) ∧ m <<< (logPrecision - Nat.log2 m) < 2 ^ 161 := by
  have hl : Nat.log2 m < 160 := (Nat.log2_lt (by omega)).2 h2
  have ha := Nat.log2_self_le (n := m) (by omega)
  have hb := Nat.lt_log2_self (n := m)
  have e : (2 : Nat) ^ 160 = 2 ^ (160 - Nat.log2 m) * 2 ^ Nat.log2 m := by
    rw [← pow_add]; congr 1; omega
  have e' : (2 : Nat) ^ 161 = 2 ^ (160 - Nat.log2 m) * 2 ^ (Nat.log2 m + 1) := by
    rw [← pow_add]; congr 1; omega
  refine ⟨hl, ?_, ?_, ?_⟩ <;> rw [Nat.shiftLeft_eq, show logPrecision = 160 from rfl]
  · rw [e]; ring
  · rw [e, mul_comm m]; exact Nat.mul_le_mul_left _ ha
  · rw [e', mul_comm m]; exact Nat.mul_lt_mul_of_pos_left hb (by positivity)

/-- `logTwo` never falls. -/
theorem logTwo_mono {m n : Nat} (h1 : 1 ≤ m) (h : m ≤ n) : logTwo m ≤ logTwo n := by
  have hl : Nat.log2 m ≤ Nat.log2 n := by
    rw [Nat.le_log2 (by omega)]
    exact (Nat.log2_self_le (by omega)).trans h
  unfold logTwo
  rcases hl.lt_or_eq with hlt | heq
  · have := logFraction_lt logBits (m <<< (logPrecision - Nat.log2 m))
    have : (Nat.log2 m + 1) * 2 ^ logBits ≤ Nat.log2 n * 2 ^ logBits := Nat.mul_le_mul_right _ hlt
    linarith
  · rw [heq]
    refine Nat.add_le_add_left (logFraction_mono _ ?_) _
    rw [Nat.shiftLeft_eq, Nat.shiftLeft_eq]
    exact Nat.mul_le_mul_right _ h

/-- One floor of 2^-160 changes a logarithm of a number of at least 1 by at most 2^-159. -/
theorem logb_floor {y z : ℝ} (h1 : 1 ≤ y) (h : y ≤ z) (h' : z ≤ y + 1 / 2 ^ 160) :
    Real.logb 2 y ≤ Real.logb 2 z ∧ Real.logb 2 z ≤ Real.logb 2 y + 1 / 2 ^ 159 := by
  have hy : 0 < y := by linarith
  have hz : 0 < z := by linarith
  have l2 : (1 : ℝ) / 2 < Real.log 2 := by have := Real.log_two_gt_d9; linarith
  refine ⟨Real.logb_le_logb_of_le (by norm_num) hy h, ?_⟩
  have : Real.log z ≤ Real.log y + 1 / 2 ^ 160 := by
    have hq : Real.log (z / y) ≤ z / y - 1 := Real.log_le_sub_one_of_pos (by positivity)
    rw [Real.log_div hz.ne' hy.ne'] at hq
    have : z / y - 1 ≤ 1 / 2 ^ 160 := by
      rw [div_sub_one hy.ne', div_le_iff₀ hy]
      nlinarith [show (0 : ℝ) < 1 / 2 ^ 160 by positivity]
    linarith
  unfold Real.logb
  rw [div_le_iff₀ (by linarith), add_mul, div_mul_cancel₀ _ (by linarith)]
  nlinarith [show (0 : ℝ) < 1 / 2 ^ 160 by positivity, show (1 : ℝ) / 2 ^ 159 = 2 * (1 / 2 ^ 160) by norm_num]

/-- The bits `logFraction` finds are those of the logarithm, to one unit of the last and 2^-157. -/
theorem logFraction_bounds (n : Nat) {x : Nat} (h1 : 2 ^ 160 ≤ x) (h2 : x < 2 ^ 161) :
    (logFraction n x 0 : ℝ) / 2 ^ n ≤ Real.logb 2 ((x : ℝ) / 2 ^ 160) ∧
      Real.logb 2 ((x : ℝ) / 2 ^ 160) ≤ ((logFraction n x 0 : ℝ) + 1) / 2 ^ n + 1 / 2 ^ 157 := by
  induction n generalizing x with
  | zero =>
    have a : (1 : ℝ) ≤ (x : ℝ) / 2 ^ 160 := by
      rw [le_div_iff₀ (by positivity), one_mul]; exact_mod_cast h1
    have b : (x : ℝ) / 2 ^ 160 ≤ 2 := by
      rw [div_le_iff₀ (by positivity)]
      have : (x : ℝ) ≤ 2 ^ 161 := by exact_mod_cast h2.le
      linarith
    have := Real.logb_le_logb_of_le (b := 2) (by norm_num) (by linarith) b
    rw [Real.logb_self_eq_one (by norm_num)] at this
    simp only [logFraction, Nat.cast_zero, zero_add, pow_zero, div_one]
    refine ⟨Real.logb_nonneg (by norm_num) a, this.trans ?_⟩
    have : (0 : ℝ) < 1 / 2 ^ 157 := by positivity
    linarith
  | succ n ih =>
    have hx : (0 : ℝ) < x := by exact_mod_cast (show 0 < x by omega)
    -- the square, and the step from the logarithm of `x` to that of its square
    have hsq : ∀ y : ℝ, y = (x : ℝ) / 2 ^ 160 → Real.logb 2 y = Real.logb 2 (y * y) / 2 := by
      intro y hy
      have : y ≠ 0 := by rw [hy]; positivity
      rw [Real.logb_mul this this]; ring
    have hd : (x * x) >>> logPrecision = x * x / 2 ^ 160 := Nat.shiftRight_eq_div_pow _ _
    have lo : 2 ^ 160 * (x * x / 2 ^ 160) ≤ x * x := Nat.mul_div_le _ _
    have hi : x * x < 2 ^ 160 * (x * x / 2 ^ 160 + 1) := by
      have := Nat.lt_mul_div_succ (x * x) (show 0 < 2 ^ 160 by positivity); omega
    have s1 : 2 ^ 160 ≤ x * x / 2 ^ 160 := by
      rw [Nat.le_div_iff_mul_le (by positivity)]; exact Nat.mul_le_mul h1 h1
    have s2 : x * x / 2 ^ 160 < 2 ^ 162 := by
      rw [Nat.div_lt_iff_lt_mul (by positivity)]
      calc x * x < 2 ^ 161 * 2 ^ 161 := Nat.mul_lt_mul'' h2 h2
        _ = 2 ^ 162 * 2 ^ 160 := by norm_num
    have e57 : (1 : ℝ) / 2 ^ 157 = 4 * (1 / 2 ^ 159) := by norm_num
    have p59 : (0 : ℝ) < 1 / 2 ^ 159 := by positivity
    simp only [logFraction, hd]
    generalize hq : x * x / 2 ^ 160 = q at *
    have lo' : (2 : ℝ) ^ 160 * q ≤ x * x := by exact_mod_cast lo
    have hi' : (x : ℝ) * x ≤ 2 ^ 160 * (q + 1) := by exact_mod_cast hi.le
    split
    · rename_i hlt
      obtain ⟨i1, i2⟩ := ih (x := q) s1 hlt
      have a : (1 : ℝ) ≤ (q : ℝ) / 2 ^ 160 := by
        rw [le_div_iff₀ (by positivity), one_mul]; exact_mod_cast s1
      obtain ⟨f1, f2⟩ := logb_floor a
        (z := (x : ℝ) / 2 ^ 160 * (x / 2 ^ 160)) (by field_simp; linarith) (by field_simp; linarith)
      rw [hsq _ rfl, show (2 : Nat) * 0 = 0 from rfl, pow_succ]
      constructor
      · rw [← div_div]; linarith
      · rw [← div_div]; linarith
    · rename_i hge
      have hh : q >>> 1 = q / 2 := by rw [Nat.shiftRight_eq_div_pow, pow_one]
      rw [hh]
      have r1 : 2 ^ 160 ≤ q / 2 := by simp only [logPrecision] at hge; omega
      have r2 : q / 2 < 2 ^ 161 := by omega
      obtain ⟨i1, i2⟩ := ih (x := q / 2) r1 r2
      have g1 : (2 : ℝ) * ((q / 2 : Nat) : ℝ) ≤ q := by exact_mod_cast Nat.mul_div_le q 2
      have g2 : (q : ℝ) + 1 ≤ 2 * ((q / 2 : Nat) : ℝ) + 2 := by
        exact_mod_cast (show q + 1 ≤ 2 * (q / 2) + 2 by omega)
      rw [logFraction_acc, hsq _ rfl]
      generalize q / 2 = r at *
      have a : (1 : ℝ) ≤ (r : ℝ) / 2 ^ 160 := by
        rw [le_div_iff₀ (by positivity), one_mul]; exact_mod_cast r1
      obtain ⟨f1, f2⟩ := logb_floor a
        (z := (x : ℝ) / 2 ^ 160 * (x / 2 ^ 160) / 2) (by field_simp; linarith) (by field_simp; linarith)
      have hz : (x : ℝ) / 2 ^ 160 * (x / 2 ^ 160) ≠ 0 := by positivity
      rw [Real.logb_div hz (by norm_num), Real.logb_self_eq_one (by norm_num)] at f1 f2
      have p : (0 : ℝ) < 2 ^ n := by positivity
      push_cast
      rw [pow_succ, ← div_div, ← div_div, one_mul, add_assoc,
        add_div _ _ ((2 : ℝ) ^ n), add_div _ _ ((2 : ℝ) ^ n), div_self p.ne']
      constructor <;> linarith

/-- `logTwo m` is log2 m in units of 2^-128, to a little more than one unit. -/
theorem logTwo_bounds {m : Nat} (h1 : 1 ≤ m) (h2 : m < 2 ^ 160) :
    (logTwo m : ℝ) / 2 ^ 128 ≤ Real.logb 2 m ∧
      Real.logb 2 m ≤ ((logTwo m : ℝ) + 1) / 2 ^ 128 + 1 / 2 ^ 157 := by
  obtain ⟨-, he, ha, hb⟩ := logTwo_argument h1 h2
  obtain ⟨b1, b2⟩ := logFraction_bounds logBits ha hb
  unfold logTwo
  generalize m <<< (logPrecision - Nat.log2 m) = x at *
  generalize Nat.log2 m = k at *
  have hx : (0 : ℝ) < x := by exact_mod_cast (show 0 < x by omega)
  have hm : (m : ℝ) = (x : ℝ) / 2 ^ 160 * 2 ^ k := by
    field_simp; exact_mod_cast he.symm
  have hl : Real.logb 2 m = Real.logb 2 ((x : ℝ) / 2 ^ 160) + k := by
    rw [hm, Real.logb_mul (by positivity) (by positivity), Real.logb_pow, Real.logb_self_eq_one (by norm_num), mul_one]
  rw [hl]
  simp only [show logBits = 128 from rfl] at *
  push_cast
  rw [add_assoc, add_div, add_div _ _ ((2 : ℝ) ^ 128)]
  constructor <;> linarith

end Sys2Proof.Machine
end

