-- ==== Sys2Proof/Laws/Operands.lean ====
section
/-! SUPPORT. What an operand byte names, and the code tables. -/

namespace Sys2Proof.Machine

theorem below?_eq_some {n : Nat} {x : Byte} {i : Fin n} : below? n x = some i ↔ x.toNat = i.val := by
  unfold below?
  split
  · constructor
    · rintro h; cases h; rfl
    · intro h; simp [h]
  · simp only [reduceCtorEq, false_iff]
    intro h; exact absurd i.isLt (by omega)

theorem below?_eq_none {n : Nat} {x : Byte} : below? n x = none ↔ n ≤ x.toNat := by
  unfold below?; split <;> simp <;> omega

/-- The byte of an index below 256 names that index. -/
theorem below?_ofNat {n : Nat} (i : Fin n) (hn : n ≤ 256) : below? n (BitVec.ofNat 8 i.val) = some i := by
  rw [below?_eq_some, BitVec.toNat_ofNat, Nat.mod_eq_of_lt]
  have := i.isLt; omega

theorem channel?_ofNat (c : Fin 2) : channel? (BitVec.ofNat 8 c.val) = some c := below?_ofNat c (by decide)
theorem outputBus?_ofNat (k : Fin 5) : outputBus? (BitVec.ofNat 8 k.val) = some k := below?_ofNat k (by decide)
theorem matrixInput?_ofNat (i : Fin 18) : matrixInput? (BitVec.ofNat 8 i.val) = some i :=
  below?_ofNat i (by decide)
theorem matrixBus?_ofNat (b : Fin 6) : matrixBus? (BitVec.ofNat 8 b.val) = some b := below?_ofNat b (by decide)
theorem destination?_ofNat (d : Fin 6) : destination? (BitVec.ofNat 8 d.val) = some d :=
  below?_ofNat d (by decide)

theorem source?_tag (s : SignalSource) : source? (BitVec.ofNat 8 (sourceTag s)) = some s := by
  cases s <;> decide
theorem mixBus?_tag (b : MixBus) : mixBus? (BitVec.ofNat 8 (busTag b)) = some b := by
  cases b with
  | source s => cases s <;> decide
  | mix m => cases m <;> decide
theorem impMode?_tag (m : ImpMode) : impMode? (BitVec.ofNat 8 (impModeTag m)) = some m := by
  cases m <;> decide
theorem clock?_tag (c : Clock) : clock? (BitVec.ofNat 8 (clockTag c)) = some c := by cases c <;> decide
theorem muteBit?_muteByte (m : Bool) : muteBit? (muteByte m) = some m := by cases m <;> decide

theorem source?_eq_none {x : Byte} : source? x = none ↔ 25 ≤ x.toNat := by
  simp [source?, sourcesInOrder]
theorem mixBus?_eq_none {x : Byte} : mixBus? x = none ↔ 31 ≤ x.toNat := by
  simp [mixBus?, busesInOrder, sourcesInOrder]
theorem impMode?_eq_none {x : Byte} : impMode? x = none ↔ 2 ≤ x.toNat := by
  simp [impMode?, impModesInOrder]; omega
theorem clock?_eq_none {x : Byte} : clock? x = none ↔ 3 ≤ x.toNat := by simp [clock?, clocksInOrder]
theorem muteBit?_eq_none {x : Byte} : muteBit? x = none ↔ 2 ≤ x.toNat := by
  simp [muteBit?]; omega

/-- The bus codes of two different tags differ. -/
theorem busCode_injective : Function.Injective busCode := by
  have key : ∀ t : Byte, t ≠ 0 →
      Equiv.swap (Config.busPermutation 0) 0xFF (Config.busPermutation t) ≠ 0xFF := by
    intro t ht h
    have h' := congrArg (Equiv.swap (Config.busPermutation 0) 0xFF) h
    rw [Equiv.swap_apply_self, Equiv.swap_apply_right] at h'
    exact ht (Config.busPermutation.injective h')
  intro a b h
  unfold busCode at h
  split at h <;> split at h
  · rename_i ha hb; rw [ha, hb]
  · rename_i hb; exact absurd h.symm (key b hb)
  · rename_i ha _; exact absurd h (key a ha)
  · exact Config.busPermutation.injective ((Equiv.swap _ _).injective h)

end Sys2Proof.Machine
end

