-- ==== Sys2Proof/Laws/PerInstr.lean ====
section
/-! SUPPORT. One lemma for each instruction: the words the encoder writes are words of its row of
spec/opcode_table.json. -/

namespace Sys2Proof.Laws.TableRow

/-- The instruction's code word satisfies the mask and the match of its row (spec/30_encoding.md R75, R77, R79). -/
def Statement (i : Instr) : Prop := i.codeWord &&& i.row.1 = i.row.2

theorem setimp (a b : Byte) : Statement (.setimp a b) := (Sys2Proof.commandWord_mask_ab ..).trans rfl
theorem setclk (b : Byte) : Statement (.setclk b) := (Sys2Proof.commandWord_mask_b ..).trans rfl
theorem setmute (a b : Byte) : Statement (.setmute a b) := (Sys2Proof.commandWord_mask_ab ..).trans rfl
theorem setatt (a : Byte) (d : Dword) : Statement (.setatt a d) := (Sys2Proof.commandWord_mask_a ..).trans rfl
theorem setsrc (a b : Byte) : Statement (.setsrc a b) := (Sys2Proof.commandWord_mask_ab ..).trans rfl
theorem setgain (a b : Byte) (d : Dword) : Statement (.setgain a b d) := (Sys2Proof.commandWord_mask_ab ..).trans rfl
theorem setroute (a b : Byte) : Statement (.setroute a b) := (Sys2Proof.commandWord_mask_ab ..).trans rfl
theorem save : Statement (.save) := rfl
theorem factory : Statement (.factory) := rfl
theorem zero : Statement (.zero) := rfl
theorem meterpoll : Statement (.meterpoll) := rfl
theorem cvtatt (d : Dword) : Statement (.cvtatt d) := (Sys2Proof.commandWord_mask_none ..).trans rfl
theorem cvtgain (d : Dword) : Statement (.cvtgain d) := (Sys2Proof.commandWord_mask_none ..).trans rfl
theorem cvtmeter (a b : Byte) : Statement (.cvtmeter a b) := (Sys2Proof.commandWord_mask_ab ..).trans rfl
theorem getMsrc (a : Byte) : Statement (.getMsrc a) := (Sys2Proof.commandWord_mask_a ..).trans rfl
theorem getMgain (a b : Byte) : Statement (.getMgain a b) := (Sys2Proof.commandWord_mask_ab ..).trans rfl
theorem getRoute (a : Byte) : Statement (.getRoute a) := (Sys2Proof.commandWord_mask_a ..).trans rfl
theorem getMute (a : Byte) : Statement (.getMute a) := (Sys2Proof.commandWord_mask_a ..).trans rfl
theorem getAtt (a : Byte) : Statement (.getAtt a) := (Sys2Proof.commandWord_mask_a ..).trans rfl
theorem getImp (a : Byte) : Statement (.getImp a) := (Sys2Proof.commandWord_mask_a ..).trans rfl
theorem getClk : Statement (.getClk) := rfl
theorem wImp (c : Byte) (mode : ImpMode) : Statement (.wImp c mode) := (Sys2Proof.value_mask ..).trans rfl
theorem wClk (clock : Clock) : Statement (.wClk clock) := by
  simp [Statement, Instr.codeWord, Instr.row, encode]
theorem wMute (k m : Byte) : Statement (.wMute k m) := (Sys2Proof.value_mask ..).trans rfl
theorem wAtt (k p0 p1 : Byte) : Statement (.wAtt k p0 p1) := (Sys2Proof.value_mask ..).trans rfl
theorem wSrc (j : Byte) (src : SignalSource) : Statement (.wSrc j src) := (Sys2Proof.value_mask ..).trans rfl
theorem wGain (j : BitVec 5) (b : BitVec 3) (p0 p1 : Byte) : Statement (.wGain j b p0 p1) := Sys2Proof.gainValue_mask j b
theorem wRoute (d : Byte) (bus : MixBus) : Statement (.wRoute d bus) := (Sys2Proof.value_mask ..).trans rfl
theorem wSave : Statement (.wSave) := rfl
theorem wMtrIn : Statement (.wMtrIn) := rfl
theorem wMtrDaw : Statement (.wMtrDaw) := rfl
theorem wMtrMix : Statement (.wMtrMix) := rfl

end Sys2Proof.Laws.TableRow
end

