-- ==== Sys2Proof/Laws/Requests.lean ====
section
/-! SUPPORT. The wire decode of a request, in terms of its fields. -/

namespace Sys2Proof.Machine

/-- An OUT request is of a kind when its `index` and `value` are, and it has the kind's request code. -/
theorem wireDecode_out {code : Byte} {value index : Half} {payload : List Byte} {kind : RequestKind} :
    wireDecode (.out code value index payload) = some kind ↔
      kindOfOut value index = some kind ∧ code = requestCode kind := by
  simp [wireDecode, Option.filter_eq_some_iff]

/-- An IN request is of a kind when its `index` and `value` are, and it has the kind's request code. -/
theorem wireDecode_inp {code : Byte} {value index n : Half} {kind : RequestKind} :
    wireDecode (.inp code value index n) = some kind ↔
      kindOfIn value index = some kind ∧ code = requestCode kind := by
  simp [wireDecode, Option.filter_eq_some_iff]

/-- An OUT request of a kind decodes by its payload. -/
theorem decodeRequest_out {code : Byte} {value index : Half} {payload : List Byte} {kind : RequestKind}
    (h : wireDecode (.out code value index payload) = some kind) :
    decodeRequest (.out code value index payload) = orNoRequest (withPayload kind (namedPayload kind payload)) := by
  simp [decodeRequest, h]

/-- An IN request of a kind decodes by its expected length. -/
theorem decodeRequest_inp {code : Byte} {value index n : Half} {kind : RequestKind}
    (h : wireDecode (.inp code value index n) = some kind) :
    decodeRequest (.inp code value index n) = orNoRequest (withLength kind n) := by
  simp [decodeRequest, h]

/-- The member found for a code is the member that has it, where no two members share a code. -/
theorem memberOf_code {α : Type} {members : List α} {code : α → Byte} (h : Function.Injective code) {m : α}
    (hm : m ∈ members) : memberOf members code (code m) = some m := by
  cases hf : members.find? (fun x => decide (code x = code m)) with
  | none => simpa using List.find?_eq_none.1 hf m hm
  | some x =>
    have hx : code x = code m := by simpa using List.find?_some hf
    rw [memberOf, hf, h hx]

/-- No member is found for a byte that is no member's code. -/
theorem memberOf_none {α : Type} {members : List α} {code : α → Byte} {x : Byte}
    (h : ∀ m ∈ members, code m ≠ x) : memberOf members code x = none := by
  simpa [memberOf, List.find?_eq_none] using h

/-- What a request kind answers by itself: if it goes on, the address map holds it and the one request went out. -/
theorem issue_next {allowed : Bool} {r : ControlRequest} {s t : State} (h : issue allowed r s = .next t) :
    allowed = true ∧ stopsWithin 1 s.replies = none ∧ t = afterEmit r s := by
  unfold issue conduct at h
  split at h
  · rename_i ha
    split at h <;> cases h
    exact ⟨ha, ‹_›, rfl⟩
  · cases h

end Sys2Proof.Machine
end

