-- ==== Sys2Proof/Tests/Slice0.lean ====
section
/-! SUPPORT. Tests. Expected values are those of spec/95_test_vectors.md (the section is named) or of the rule
named; words are written out from the tables of spec/30_encoding.md. Last come the witnesses: for each statement
with hypotheses, states and operands that meet them. -/

namespace Sys2Proof.Tests

open Sys2Proof Sys2Proof.Machine

/-! ## Helpers -/

/-- The reset state, with the host about to give `n` successful answers. -/
def ready (n : Nat) : State := { State.reset with replies := List.replicate n (.answer (.success [])) }

/-- The reset state, with these replies to come. -/
def replying (rs : List Reply) : State := { State.reset with replies := rs }

/-- A read answered with these bytes. -/
def bytes (b : List Byte) : Reply := .answer (.success b)

/-- `n` zero bytes. -/
def zeros (n : Nat) : List Byte := List.replicate n 0

/-- The state a step leaves, the reset state if it stops. -/
def after (o : StepOutcome) : State :=
  match o with
  | .next t => t
  | .fault _ => State.reset
  | .refused _ => State.reset

/-- Does the step go on? -/
def goesOn (o : StepOutcome) : Bool :=
  match o with
  | .next _ => true
  | .fault _ => false
  | .refused _ => false

/-- How a command ended: STATUS, ERRSEEN, the result and the number of requests so far; `none` for a stop. -/
def ending (o : StepOutcome) : Option (Byte × Byte × Result × Nat) :=
  match o with
  | .next t => some (t.status, t.errseen, t.result, t.trace.length)
  | .fault _ => none
  | .refused _ => none

/-- The requests emitted so far. -/
def requests (o : StepOutcome) : List ControlRequest := (after o).trace.map Exchange.request

/-- The end of the command of these words, presented to `s`. -/
def present (s : State) (c : Word) (d : Dword) : StepOutcome := step { s with events := [.command ⟨c, d⟩] }

/-- A quiet NaN. -/
def nan : Dword := 0x7FF8000000000000

/-! ## WellFormed refuses an ill-formed term of each check (R51, R79) -/

theorem test_wellFormed_refuses_channel :
    (Instr.wImp 0 .lineIn).wellFormed = false ∧ (Instr.wImp 3 .lineIn).wellFormed = false ∧
    (Instr.wImp 1 .lineIn).wellFormed = true ∧ (Instr.wImp 2 .instrument).wellFormed = true := by decide

theorem test_wellFormed_refuses_bus :
    (Instr.wMute 5 0).wellFormed = false ∧ (Instr.wMute 4 0).wellFormed = true ∧
    (Instr.wAtt 5 0 0).wellFormed = false ∧ (Instr.wAtt 4 0 0).wellFormed = true := by decide

theorem test_wellFormed_refuses_mute_bit :
    (Instr.wMute 0 2).wellFormed = false ∧ (Instr.wMute 0 1).wellFormed = true := by decide

theorem test_wellFormed_refuses_attenuation_payload :
    (Instr.wAtt 0 0x01 0x00).wellFormed = false ∧ (Instr.wAtt 0 0xFF 0x7F).wellFormed = false ∧
    (Instr.wAtt 0 0x01 0xFA).wellFormed = true ∧ (Instr.wAtt 0 0x00 0x80).wellFormed = true := by decide

theorem test_wellFormed_refuses_input :
    (Instr.wSrc 18 .off).wellFormed = false ∧ (Instr.wSrc 17 .off).wellFormed = true ∧
    (Instr.wGain 18 0 0 0).wellFormed = false ∧ (Instr.wGain 17 5 0 0).wellFormed = true := by decide

theorem test_wellFormed_refuses_matrix_bus :
    (Instr.wGain 0 6 0 0).wellFormed = false ∧ (Instr.wGain 0 7 0 0).wellFormed = false := by decide

theorem test_wellFormed_refuses_gain_payload :
    (Instr.wGain 0 0 0x01 0x00).wellFormed = false ∧ (Instr.wGain 0 0 0x00 0x07).wellFormed = false ∧
    (Instr.wGain 0 0 0x00 0x7F).wellFormed = false ∧ (Instr.wGain 0 0 0x00 0x80).wellFormed = true := by decide

theorem test_wellFormed_refuses_destination :
    (Instr.wRoute 6 (.mix .m1)).wellFormed = false ∧ (Instr.wRoute 5 (.mix .m1)).wellFormed = true := by decide

/-! ## Decoding: the words of spec/30_encoding.md R74, R77 and R79, written out field by field -/

theorem test_decode_set_commands_from_bits :
    decodeCommand ⟨0b0001_0000_00000001_00000001_00000000, 0⟩ = .ok (.setimp 1 1) ∧
    decodeCommand ⟨0b0010_0000_00000000_00000010_00000000, 0⟩ = .ok (.setclk 2) ∧
    decodeCommand ⟨0b0011_0000_00000100_00000001_00000000, 0⟩ = .ok (.setmute 4 1) ∧
    decodeCommand ⟨0b0100_0000_00000010_00000000_00000000, 0xC072C00000000000⟩ =
      .ok (.setatt 2 0xC072C00000000000) ∧
    decodeCommand ⟨0b0101_0000_00010001_00011000_00000000, 0⟩ = .ok (.setsrc 17 24) ∧
    decodeCommand ⟨0b0110_0000_00000011_00000010_00000000, 0x401C000000000000⟩ =
      .ok (.setgain 3 2 0x401C000000000000) ∧
    decodeCommand ⟨0b0111_0000_00000101_00011110_00000000, 0⟩ = .ok (.setroute 5 30) ∧
    decodeCommand ⟨0b1000_0000_00000000_00000000_00000000, 0⟩ = .ok .save := by decide

theorem test_decode_bulk_meter_codec_from_bits :
    decodeCommand ⟨0b1001_0000_00000000_00000000_00000000, 0⟩ = .ok .factory ∧
    decodeCommand ⟨0b1010_0000_00000000_00000000_00000000, 0⟩ = .ok .zero ∧
    decodeCommand ⟨0b1011_0000_00000000_00000000_00000000, 0⟩ = .ok .meterpoll ∧
    decodeCommand ⟨0b1100_0000_00000000_00000000_00000000, 0xBFB999999999999A⟩ =
      .ok (.cvtatt 0xBFB999999999999A) ∧
    decodeCommand ⟨0b1101_0000_00000000_00000000_00000000, 0xC00D99999999999A⟩ =
      .ok (.cvtgain 0xC00D99999999999A) ∧
    decodeCommand ⟨0b1110_0000_00010010_00110100_00000000, 0⟩ = .ok (.cvtmeter 0x12 0x34) := by decide

theorem test_decode_get_from_bits :
    decodeCommand ⟨0b1111_0000_00001000_00000000_00000000, 0⟩ = .ok (.getMsrc 8) ∧
    decodeCommand ⟨0b1111_0001_00010001_00000101_00000000, 0⟩ = .ok (.getMgain 17 5) ∧
    decodeCommand ⟨0b1111_0010_00000011_00000000_00000000, 0⟩ = .ok (.getRoute 3) ∧
    decodeCommand ⟨0b1111_0011_00000100_00000000_00000000, 0⟩ = .ok (.getMute 4) ∧
    decodeCommand ⟨0b1111_0100_00000010_00000000_00000000, 0⟩ = .ok (.getAtt 2) ∧
    decodeCommand ⟨0b1111_0101_00000001_00000000_00000000, 0⟩ = .ok (.getImp 1) ∧
    decodeCommand ⟨0b1111_0110_00000000_00000000_00000000, 0⟩ = .ok .getClk := by decide

/-- R79's table, with 0x018D = 0000 0001, 10001, 101 for cell (17, 5). -/
theorem test_decode_request_kinds_from_fields :
    decodeOrder (.out 0b00001001_00000010 0x0100 [.impCode .instrument, .byte 0]) = .ok (.wImp 2 .instrument) ∧
    decodeOrder (.out 0b00000001_00000000 0x2800 [.clkCode .adat]) = .ok (.wClk .adat) ∧
    decodeOrder (.out 0b00000001_00000011 0x0a00 [.byte 1, .byte 0]) = .ok (.wMute 3 1) ∧
    decodeOrder (.out 0b00000010_00000001 0x0a00 [.byte 0x01, .byte 0xFA]) = .ok (.wAtt 1 0x01 0xFA) ∧
    decodeOrder (.out 0b00000110_00010001 0x3200 [.srcCode .adat8, .byte 0]) = .ok (.wSrc 17 .adat8) ∧
    decodeOrder (.out 0b00000001_10001_101 0x3c00 [.byte 0, .byte 6]) = .ok (.wGain 17 5 0 6) ∧
    decodeOrder (.out 0b00000000_00000101 0x3300 [.busByte (.mix .m6), .byte 0]) = .ok (.wRoute 5 (.mix .m6)) ∧
    decodeOrder (.out 0b00000000_01011010 0x3c00 [.byte 0xa5]) = .ok .wSave ∧
    decodeOrder (.inp 0x0000 0x3c00 36) = .ok .wMtrIn ∧
    decodeOrder (.inp 0x0003 0x3c00 12) = .ok .wMtrDaw ∧
    decodeOrder (.inp 0x0001 0x3c00 16) = .ok .wMtrMix := by decide

/-- A request of no kind of R79: a wrong index, a wrong length, a wrong payload, a number where a code stands. -/
theorem test_decode_refuses_other_requests :
    decodeOrder (.out 0x0902 0x0200 [.impCode .lineIn, .byte 0]) = .error .noSuchRequest ∧
    decodeOrder (.inp 0x0000 0x3c00 35) = .error .noSuchRequest ∧
    decodeOrder (.out 0x005a 0x3c00 [.byte 0xa4]) = .error .noSuchRequest ∧
    decodeOrder (.out 0x0100 0x2800 [.clkCode .internal, .byte 0]) = .error .noSuchRequest ∧
    decodeOrder (.out 0x0902 0x0100 [.byte 0x5C, .byte 0]) = .error .noSuchRequest ∧
    decodeOrder (.out 0x0611 0x3200 [.impCode .lineIn, .byte 0]) = .error .noSuchRequest ∧
    decodeOrder (.out 0x0902 0x0100 [.impCode .lineIn, .byte 1]) = .error .noSuchRequest := by decide

/-- R80: the operands in `value`, the payload or the length not looked at, the channel one less than its field. -/
theorem test_wireDecode_recovers_operands :
    kindOfOut 0x0901 0x0100 = some (.imp 0) ∧ kindOfOut 0x0902 0x0100 = some (.imp 1) ∧
    kindOfOut 0x0100 0x2800 = some .clk ∧ kindOfOut 0x0104 0x0a00 = some (.mute 4) ∧
    kindOfOut 0x0204 0x0a00 = some (.att 4) ∧ kindOfOut 0x0611 0x3200 = some (.src 17) ∧
    kindOfOut 0x018D 0x3c00 = some (.gain 17 5) ∧ kindOfOut 0x0005 0x3300 = some (.route 5) ∧
    kindOfOut 0x0902 0x0200 = none ∧ kindOfIn 0x0002 0x3c00 = none := by decide

/-- R80: the request code is looked at. -/
theorem test_wireDecode_request_code :
    wireDecode (.inp 0x03 0x0001 0x3c00 0) = some .mtrMix ∧ wireDecode (.inp 0x04 0x0001 0x3c00 16) = none ∧
    wireDecode (.out 0x03 0x005a 0x3c00 []) = some .save ∧
    wireDecode (.out 0x04 0x005a 0x3c00 [0xa5]) = none := by decide

/-- 95 §2.9, the rows that end with ILLEGAL_CMD: they decode to nothing. -/
theorem test_decode_refuses_illegal_words :
    decodeCommand ⟨0x00000000, 0⟩ = .error .reservedOpcode ∧
    decodeCommand ⟨0x0FFFFFFF, 0⟩ = .error .reservedOpcode ∧
    decodeCommand ⟨0x60000001, 0⟩ = .error .unusedField ∧
    decodeCommand ⟨0x61000000, 0⟩ = .error .unusedField ∧
    decodeCommand ⟨0x20010000, 0⟩ = .error .unusedField ∧
    decodeCommand ⟨0x40000100, 0⟩ = .error .unusedField ∧
    decodeCommand ⟨0x80000100, 0⟩ = .error .unusedField ∧
    decodeCommand ⟨0xC0010000, 0⟩ = .error .unusedField ∧
    decodeCommand ⟨0xE0000001, 0⟩ = .error .unusedField ∧
    decodeCommand ⟨0xF6010000, 0⟩ = .error .unusedField ∧
    decodeCommand ⟨0xF0000100, 0⟩ = .error .unusedField ∧
    decodeCommand ⟨0xF7000000, 0⟩ = .error .reservedSelector := by decide

/-- The numbering of spec/opcode_table.json: the command word in bits 31..0, D in bits 95..32; the `value` of a
request in bits 15..0. -/
theorem test_decodeTableWord :
    decodeTableWord 96 0xC0180000000000_00_40010000 = some (.setatt 1 0xC018000000000000) ∧
    decodeTableWord 32 0xF1110500 = some (.getMgain 17 5) ∧
    decodeTableWord 16 0x0901 = some (.wImp 1 .lineIn) ∧ decodeTableWord 16 0x0100 = some (.wClk .internal) ∧
    decodeTableWord 16 0x0104 = some (.wMute 4 0) ∧ decodeTableWord 16 0x0204 = some (.wAtt 4 0 0) ∧
    decodeTableWord 16 0x0611 = some (.wSrc 17 .off) ∧ decodeTableWord 16 0x018D = some (.wGain 17 5 0 0) ∧
    decodeTableWord 16 0x0005 = some (.wRoute 5 (.source .off)) ∧ decodeTableWord 16 0x005a = some .wSave ∧
    decodeTableWord 16 0x0000 = some .wMtrIn ∧ decodeTableWord 16 0x0003 = some .wMtrDaw ∧
    decodeTableWord 16 0x0001 = some .wMtrMix ∧ decodeTableWord 32 0x00000000 = none := by decide

/-! ## The codecs -/

/-- 95 §2.2. -/
theorem test_cvtatt_formula_branch :
    [0xC018000000000000, 0xBFB999999999999A, 0xC05FFFEF9DB22D0E, 0xC05FFFC000000000, 0xC018040000000000,
      0xBF78000000000000, 0xC018000000000001, 0xBFEFFFFFFFFFFFFF].map
      (fun d => (after (execCvtatt d State.reset)).result) =
    [0xFA01, 0xFFE7, 0x8001, 0x8002, 0xFA00, 0xFFFF, 0xFA00, 0xFF01].map Result.word := by decide +kernel

/-- 95 §2.2: the wrap, the sentinel, unity, and the infinities. -/
theorem test_cvtatt_edges :
    [0xBF70000000000000, 0xBF50624DD2F1A9FC, 0xC060000000000000, 0xFFF0000000000000, 0x8000000000000000,
      0x4008000000000000, 0x7FF0000000000000].map (fun d => (after (execCvtatt d State.reset)).result) =
    [0, 0, 0x8000, 0x8000, 0, 0, 0].map Result.word := by decide +kernel

/-- 95 §2.3: ties go away from zero. -/
theorem test_cvtgain_rounding :
    [0x4019F5C28F5C28F6, 0x401A000000000000, 0x4004000000000000, 0x3FE0000000000000, 0x3FDFFFFFFFFFFFFF,
      0xBFE0000000000000, 0xC004000000000000, 0xC05FA00000000000, 0xC05FD9999999999A].map
      (fun d => (after (execCvtgain d State.reset)).result) =
    [0x600, 0x600, 0x300, 0x100, 0, 0xFF00, 0xFD00, 0x8100, 0x8100].map Result.word := by decide +kernel

/-- 95 §2.3: the clamp. -/
theorem test_cvtgain_clamp :
    [0x401C000000000000, 0x7E37E43C8800759C, 0x7FF0000000000000, 0xC05FE00000000000, 0xFE37E43C8800759C,
      0xFFF0000000000000, 0x0000000000000001].map (fun d => (after (execCvtgain d State.reset)).result) =
    [0x600, 0x600, 0x600, 0x8000, 0x8000, 0x8000, 0].map Result.word := by decide +kernel

/-- 95 §2.4, the low half of the table. -/
theorem test_meter_table_low :
    [0, 1, 2, 3, 10, 100, 128, 255, 256, 1000, 4096].map meterLut =
    [0xFFF0000000000000, 0xC058151824C7587F, 0xC05693C6A27AE2F7, 0xC055B2610D091BC7, 0xC053151824C7587F,
      0xC04C2A30498EB0FD, 0xC04B17BB2960438F, 0xC04819721D5BF41F, 0xC048151824C7587F, 0xC0422A30498EB0FD,
      0xC038151824C7587F] := by decide +kernel

/-- 95 §2.4, the high half. -/
theorem test_meter_table_high :
    [4660, 6553, 6554, 13330, 16384, 16389, 32767, 32768, 49152, 65280, 65534, 65535].map meterLut =
    [0xC036F63DC9339276, 0xC03400341E2322AF, 0xC033FFDD41EBA18A, 0xC02BAA7E670745D0, 0xC028151824C7587F,
      0xC02813BCC2D67648, 0xC018155DA1C08A70, 0xC018151824C7587F, 0xC003FD7D9B55CB02, 0xBFA167E2526E81F6,
      0xBF315F3E4C7C6615, 0xBF215F359CD4902E] := by decide +kernel

/-- P5, step 3: A is the high byte. -/
theorem test_cvtmeter_byte_order :
    ending (execCvtmeter 0x12 0x34 State.reset) = some (0, 0, .word 0xC036F63DC9339276, 0) := by decide +kernel

/-! ## Set commands: 95 §2.5 -/

theorem test_setimp : requests (execSetimp 1 1 (ready 1)) =
    [.out Config.setRequestCode 0x0902 0x0100 [impCode .instrument, 0]] ∧
    (after (execSetimp 1 1 (ready 1))).imp = #v[none, some .instrument] := ⟨rfl, rfl⟩

theorem test_setclk : requests (execSetclk 2 (ready 1)) =
    [.out Config.setRequestCode 0x0100 0x2800 [clkCode .adat]] ∧
    (after (execSetclk 2 (ready 1))).clk = some .adat := ⟨rfl, rfl⟩

theorem test_setmute : requests (execSetmute 0 1 (ready 1)) =
    [.out Config.setRequestCode 0x0100 0x0a00 [1, 0]] ∧
    (after (execSetmute 0 1 (ready 1))).mute = #v[true, false, false, false, false] := ⟨rfl, rfl⟩

theorem test_setsrc_off : requests (execSetsrc 0 0 (ready 1)) =
    [.out Config.setRequestCode 0x0600 0x3200 [0xFF, 0]] := rfl

theorem test_setsrc : requests (execSetsrc 17 24 (ready 1)) =
    [.out Config.setRequestCode 0x0611 0x3200 [srcCode .adat8, 0]] := rfl

theorem test_setroute : requests (execSetroute 5 30 (ready 1)) =
    [.out Config.setRequestCode 0x0005 0x3300 [mixCode .m6, 0]] ∧
    (after (execSetroute 5 30 (ready 1))).route.get 5 = .mix .m6 := ⟨rfl, rfl⟩

theorem test_save : requests (execSave (ready 1)) = [.out 0x03 0x005a 0x3c00 [0xa5]] := rfl

/-- SETATT and SETGAIN store what they are given and send it clamped. -/
theorem test_setatt_stores_unclamped :
    ((after (execSetatt 2 0xC072C00000000000 (ready 1))).att.get 2,
      (after (execSetatt 0 0x8000000000000000 (ready 1))).att.get 0,
      (after (execSetgain 17 5 0x401C000000000000 (ready 1))).mgain.get 17 |>.get 5) =
    (0xC072C00000000000, 0x8000000000000000, 0x401C000000000000) := by decide +kernel

/-- The parts of a SETATT or SETGAIN request that no open parameter touches: value, index, payload. -/
def sent (o : StepOutcome) : List (Half × Half × List Byte) :=
  (requests o).map fun r => match r with
    | .out _ value index payload => (value, index, payload)
    | .inp _ value index _ => (value, index, [])

theorem test_setatt_request :
    (sent (execSetatt 4 0xC029000000000000 (ready 1)), sent (execSetatt 1 0xC018000000000000 (ready 1)),
      sent (execSetatt 3 0x4008000000000000 (ready 1))) =
    ([(0x0204, 0x0a00, [0x81, 0xF3])], [(0x0201, 0x0a00, [0x01, 0xFA])], [(0x0203, 0x0a00, [0, 0])]) := by
  decide +kernel

theorem test_setgain_request :
    (sent (execSetgain 3 2 0 (ready 1)), sent (execSetgain 17 5 0x401C000000000000 (ready 1)),
      sent (execSetgain 1 0 0xC00D99999999999A (ready 1))) =
    ([(0x011A, 0x3c00, [0, 0])], [(0x018D, 0x3c00, [0, 6])], [(0x0108, 0x3c00, [0, 0xFC])]) := by
  decide +kernel

/-- 95 §2.5, Transport failure; P6 step 4: the shadow write stays. -/
theorem test_set_command_transport_error :
    ending (execSetatt 1 0xC018000000000000 (replying [.answer .transportError])) =
      some (6, 0x40, .empty, 1) ∧
    (after (execSetatt 1 0xC018000000000000 (replying [.answer .transportError]))).att.get 1 =
      0xC018000000000000 := by decide +kernel

/-! ## GET: 95 §2.6 -/

theorem test_get_at_reset :
    [execGetMsrc 0, execGetMgain 17 5, execGetRoute 5, execGetMute 4, execGetAtt 0, execGetImp 1, execGetClk].map
      (fun f => ending (f State.reset)) =
    [some (0, 0, .word 0, 0), some (0, 0, .word 0xFFF0000000000000, 0), some (0, 0, .word 0, 0),
      some (0, 0, .word 0, 0), some (0, 0, .word 0, 0), some (4, 0x10, .empty, 0), some (4, 0x10, .empty, 0)] := by
  decide +kernel

theorem test_get_tags :
    [execGetImp 1 (after (execSetimp 1 1 (ready 1))), execGetClk (after (execSetclk 2 (ready 1))),
      execGetRoute 3 (after (execSetroute 3 18 (ready 1))), execGetMsrc 8 (after (execSetsrc 8 17 (ready 1))),
      execGetMute 1 (after (execSetmute 1 1 (ready 1)))].map (fun o => (after o).result) =
    [1, 2, 18, 17, 1].map Result.word := by decide +kernel

/-! ## Errors and their priority: 95 §2.9, from the reset state through `step` -/

theorem test_illegal_words_end_with_status_1 :
    [0x00000000, 0x0FFFFFFF, 0x60000001, 0x61000000, 0x20010000, 0x40000100, 0x80000100, 0xC0010000, 0xE0000001,
      0x61120600, 0xF7000000].map (fun c => ending (present State.reset c nan)) =
    List.replicate 11 (some (1, 0x02, .empty, 0)) := by decide +kernel

theorem test_operands_outside_end_with_status_2 :
    [0x50120000, 0x50001900, 0x70061A00, 0x70001F00, 0x60000600, 0x60000800, 0x30000200, 0x10020000, 0x10000200,
      0x20000300, 0x40050000, 0x60120600, 0xF5020000, 0xF0120000, 0xF1000600].map
      (fun c => ending (present State.reset c nan)) =
    List.replicate 15 (some (2, 0x04, .empty, 0)) := by decide +kernel

theorem test_nan_operands_end_with_status_3 :
    [(0x40000000, 0x7FF8000000000000), (0x40000000, 0xFFF8000000000001), (0x60000000, 0x7FF8000000000000),
      (0xC0000000, 0x7FF0000000000001), (0xD0000000, 0x7FF8000000000000)].map
      (fun p => ending (present State.reset p.1 p.2)) =
    List.replicate 5 (some (3, 0x08, .empty, 0)) := by decide +kernel

/-! ## Bulk programs: 95 §2.7 -/

theorem test_factory_ok : ending (execFactory (ready 138)) = some (0, 0, .empty, 138) := by decide +kernel

theorem test_zero_ok : ending (execZero (ready 136)) = some (0, 0, .empty, 136) := by decide +kernel

/-- FACTORY with TransportError on request 7 (P4, step 1). -/
theorem test_factory_interrupted :
    let o := execFactory (replying (List.replicate 6 (bytes []) ++ [.answer .transportError]))
    ending o = some (6, 0x40, .empty, 7) ∧ (after o).msrc.get 0 = .analog1 ∧ (after o).msrc.get 1 = .off := by
  decide +kernel

/-- ZERO with TransportError on request 1. -/
theorem test_zero_interrupted :
    let o := execZero (replying [.answer .transportError])
    ending o = some (6, 0x40, .empty, 1) ∧ ((after o).mgain.get 0).get 0 = 0xC069000000000000 ∧
      ((after o).mgain.get 0).get 1 = 0xFFF0000000000000 := by
  decide +kernel

/-! ## METERPOLL: 95 §2.8 -/

/-- The entry of the snapshot a step delivers. -/
def entry (o : StepOutcome) (j : Fin 32) : Option Dword :=
  match (after o).result with
  | .snapshot v => some (v.get j)
  | .word _ => none
  | .empty => none

theorem test_meterpoll_lanes :
    let o := execMeterpoll (replying [bytes (zeros 36), bytes ([0x34, 0x12] ++ zeros 10),
      bytes (List.replicate 16 0xFF)])
    [0, 17, 18, 19, 23, 24, 31].map (entry o) =
      [some 0xFFF0000000000000, some 0xFFF0000000000000, some 0xC036F63DC9339276, some 0xFFF0000000000000,
        some 0xFFF0000000000000, some 0xBF215F359CD4902E, some 0xBF215F359CD4902E] := by decide +kernel

theorem test_meterpoll_errors :
    [[bytes (zeros 35), bytes (zeros 12), bytes (zeros 16)], [bytes (zeros 37), bytes (zeros 12), bytes (zeros 16)],
      [bytes (zeros 36), bytes (zeros 12), bytes (zeros 15)], [bytes (zeros 36), .answer .transportError],
      [.answer .transportError], [bytes (zeros 35), .answer .transportError]].map
      (fun rs => ending (execMeterpoll (replying rs))) =
    [some (5, 0x20, .empty, 3), some (5, 0x20, .empty, 3), some (5, 0x20, .empty, 3), some (6, 0x40, .empty, 2),
      some (6, 0x40, .empty, 1), some (6, 0x40, .empty, 2)] := by decide +kernel

/-! ## Request kinds by themselves (R79, log 8) -/

theorem test_request_kinds :
    [execWMute 3 1, execWAtt 1 0x01 0xFA, execWGain 17 5 0 6, execWSave].map (fun f => sent (f (ready 1))) =
    [[(0x0103, 0x0a00, [1, 0])], [(0x0201, 0x0a00, [0x01, 0xFA])], [(0x018D, 0x3c00, [0, 6])],
      [(0x005a, 0x3c00, [0xa5])]] := by decide +kernel

/-- R51: the payload byte of these is the code that the open table gives to the member. -/
theorem test_request_kinds_with_codes :
    sent (execWImp 2 .instrument (ready 1)) = [(0x0902, 0x0100, [impCode .instrument, 0])] ∧
    sent (execWClk .adat (ready 1)) = [(0x0100, 0x2800, [clkCode .adat])] ∧
    sent (execWSrc 17 .adat8 (ready 1)) = [(0x0611, 0x3200, [srcCode .adat8, 0])] ∧
    sent (execWRoute 5 (.mix .m6) (ready 1)) = [(0x0005, 0x3300, [mixCode .m6, 0])] := ⟨rfl, rfl, rfl, rfl⟩

theorem test_meter_request_kinds :
    [execWMtrIn, execWMtrDaw, execWMtrMix].map (fun f => requests (f (ready 1))) =
    [[.inp 3 0x0000 0x3c00 36], [.inp 3 0x0003 0x3c00 12], [.inp 3 0x0001 0x3c00 16]] := by decide +kernel

/-! ## The step and the host -/

/-- The word that `withFetchWord` places is the next instruction to run. -/
theorem test_withFetchWord_runs :
    ending (step (State.reset.withFetchWord 32 0xE0123400)) = some (0, 0, .word 0xC036F63DC9339276, 0) ∧
    goesOn (step (State.reset.withFetchWord 16 0x0902)) = true ∧
    goesOn (step (State.reset.withFetchWord 32 0x90000000)) = true := by decide +kernel

/-- Silence leaves no next state (R237); a reset inside a command is refused (R241); a reset between commands
gives the reset state (R240). -/
theorem test_host_stops :
    execSave (replying [.silence]) = .fault .unanswered ∧
    execSave (replying [.reset]) = .refused .resetInsideCommand ∧
    step { State.reset with errseen := 0x7E, events := [.reset] } = .next State.reset := ⟨rfl, rfl, rfl⟩

/-! ## Witnesses

For each statement with hypotheses, states and operands that meet all of them, at the ends of the ranges where
there are ranges. -/

theorem replicate_getElem {n k : Nat} (hk : k < n) (r : Reply) : (List.replicate n r)[k]? = some r := by simp [hk]

theorem allSucceed_ready (n : Nat) : AllSucceed n (ready n) := fun _ hk => ⟨[], replicate_getElem hk _⟩

theorem next_of_ending {o : StepOutcome} {st es : Byte} {r : Result} {n : Nat}
    (h : ending o = some (st, es, r, n)) : ∃ t, o = .next t ∧ t.status = st := by
  cases o with
  | next t => exact ⟨t, rfl, by simp [ending] at h; exact h.1⟩
  | fault f => simp [ending] at h
  | refused f => simp [ending] at h

theorem witness_ResetSetsEveryElement :
    let s : State := { State.reset with status := 6, events := [.reset, .reset] }
    s.order = none ∧ s.events = .reset :: [.reset] := ⟨rfl, rfl⟩

theorem witness_StepRunsThePresentedCommand :
    let s : State := { State.reset with events := [.command ⟨0x70051E00, 0⟩] }
    s.order = none ∧ s.events = .command ⟨0x70051E00, 0⟩ :: [] ∧
      decode (.command ⟨0x70051E00, 0⟩) = .ok (.setroute 5 30) ∧ (Instr.setroute 5 30).wellFormed = true :=
  ⟨rfl, rfl, rfl, rfl⟩

theorem witness_StepRunsTheRequestOrder :
    let o : RequestOrder := .out 0x0902 0x0100 [.impCode .instrument, .byte 0]
    let s : State := { State.reset with order := some o }
    s.order = some o ∧ decode (.order o) = .ok (.wImp 2 .instrument) ∧
      (Instr.wImp 2 .instrument).wellFormed = true := ⟨rfl, rfl, rfl⟩

theorem witness_IdleBlockHoldsItsState : State.reset.order = none ∧ State.reset.events = [] := ⟨rfl, rfl⟩

theorem witness_WordOfNoRowEndsWithIllegalCmd :
    let s : State := { State.reset with events := [.command ⟨0xF7000000, nan⟩] }
    s.order = none ∧ s.events = .command ⟨0xF7000000, nan⟩ :: [] ∧
      ∀ row ∈ commandRows, (0xF7000000 : Word) &&& row.1 ≠ row.2 := ⟨rfl, rfl, by simp [commandRows]⟩

theorem witness_CommandDecodesExactlyByItsRow :
    decodeCommand ⟨0xF6000000, 0⟩ = .ok .getClk ∧ decodeCommand ⟨0x10FFFF00, 0⟩ = .ok (.setimp 0xFF 0xFF) ∧
    (0xFF0000FF, 0x10000000) ∈ commandRows ∧ (0x10FFFF00 : Word) &&& 0xFF0000FF = 0x10000000 := by decide

theorem witness_DecodeOfEncodeIsTheInstruction :
    (Instr.wGain 17 5 0 0x80).wellFormed = true ∧ (Instr.setgain 0xFF 0xFF nan).wellFormed = true := by decide

theorem witness_EncodeOfDecodedCommandIsTheCommand :
    decodeCommand ⟨0x60FFFF00, nan⟩ = .ok (.setgain 0xFF 0xFF nan) ∧
    decodeCommand ⟨0x80000000, nan⟩ = .ok .save := ⟨rfl, rfl⟩

theorem witness_DataWordIsReadByFourOpcodes :
    opOf 0x80000000 ∉ [0x4#4, 0x6#4, 0xC#4, 0xD#4] ∧ opOf 0xC0000000 ∈ [0x4#4, 0x6#4, 0xC#4, 0xD#4] ∧
    decodeCommand ⟨0xC0000000, 0⟩ = .ok (.cvtatt 0) ∧ decodeCommand ⟨0xC0000000, 1⟩ = .ok (.cvtatt 1) ∧
    (0 : Dword) ≠ 1 := by decide

/-- Requests of every row's kind with other payloads, and one of no row. -/
theorem witness_WireDecodeRecoversTheOperands :
    OfKind (.inp 0x03 0x0003 0x3c00 0) .mtrDaw ∧ wireDecode (.inp 0x03 0x0003 0x3c00 0) = some .mtrDaw ∧
    OfKind (.out Config.setRequestCode (0x09#8 ++ (0xFF#8 + 1)) 0x0100 []) (.imp 0xFF) ∧
    wireDecode (.inp 0x03 0x0002 0x3c00 16) = none := ⟨.mtrDaw 0, rfl, .imp 0xFF [], rfl⟩

theorem witness_GainAddressesAreDistinct :
    requestOf (.gain 17 5 unityDb) = .out Config.setRequestCode 0x018D 0x3c00 [0, 0] ∧
    requestOf (.gain 0 0 unityDb) = .out Config.setRequestCode 0x0100 0x3c00 [0, 0] := by
  constructor <;> simp [requestOf, half, pairPayload, unityDb] <;> decide +kernel

/-- The ends of the third branch's range, of each half of it, and one multiple of 1/256 dB. -/
theorem witness_AttenuationClosedForm :
    (∀ n ∈ [-128 * (dbUnit : Int) + 1, -1], -128 * (dbUnit : Int) < n ∧ n < 0) ∧
    256 * (-128 * (dbUnit : Int) + 1) < -(dbUnit : Int) ∧ -(dbUnit : Int) ≤ 256 * (-1) ∧
    256 * (-6 * (dbUnit : Int)) = -1536 * (dbUnit : Int) ∧
    payloadWord (attenuationToWire (.finite (-128 * (dbUnit : Int)))) = 0x8000 := by decide +kernel

theorem witness_ExactValueSeparatesWords :
    ¬ NaNWord 0x8000000000000000 ∧ exactValue 0x8000000000000000 = exactValue 0 ∧
    ¬ NaNWord 0x3FF0000000000000 ∧ NaNWord 0xFFF8000000000001 := by decide +kernel

theorem witness_SpecialOperandsOfTheCodecs :
    NaNWord 0x7FF0000000000001 ∧ NaNWord 0xFFFFFFFFFFFFFFFF ∧
    (0x8000000000000000 : Dword).extractLsb' 52 11 = 0 ∧ (0x000FFFFFFFFFFFFF : Dword).extractLsb' 52 11 = 0 := by
  decide

/-- The exact values of the words of entries 1 and 65535. -/
theorem witness_MeterTableIsNegativeAndNeverFalls :
    (∃ n : Int, exactValue (meterLut 1) = some (.finite n)) ∧
    (∃ n : Int, exactValue (meterLut 65535) = some (.finite n)) ∧ 1 ≤ 1 ∧ 1 ≤ 65535 ∧ 65535 ≤ 65535 := by
  refine ⟨⟨-(magnitudeOf 0xC058151824C7587F), ?_⟩, ⟨-(magnitudeOf 0xBF215F359CD4902E), ?_⟩, by decide⟩ <;>
    decide +kernel

theorem witness_MeterTableApproximatesTheLogarithm : 1 ≤ 1 ∧ (1 : Nat) ≤ 65535 ∧ 1 ≤ 65535 := by decide

theorem witness_CvtattAnswersTheAttenuationWord :
    exactValue 0xFFF0000000000000 = some .negInf ∧ exactValue 0x8000000000000000 = some (.finite 0) := by
  decide +kernel

theorem witness_CvtgainAnswersTheGainWord :
    exactValue 0x7FF0000000000000 = some .posInf ∧
    exactValue 0xC069000000000000 = some (.finite (-200 * (dbUnit : Int))) := by decide +kernel

/-- For the statements SetimpWritesTheSwitchAndEmits, SetclkWritesTheClockAndEmits, SetmuteWritesTheMuteBitAndEmits,
SetsrcWritesTheSourceAndEmits, SetrouteWritesTheSourceAndEmits and SaveEmitsTheSaveRequest: the host answers, with success, with TransportError, or
with an answer no list gives. -/
theorem witness_Answered : Answered 1 (ready 1) ∧ Answered 1 State.reset ∧
    Answered 1 (replying [.answer .transportError]) := by decide

theorem witness_SetattStoresAsGivenAndEmits :
    exactValue 0xFFF0000000000000 = some .negInf ∧ Answered 1 (ready 1) := by decide +kernel

theorem witness_SetgainStoresAsGivenAndEmits :
    exactValue 0 = some (.finite 0) ∧ Answered 1 (replying [.answer .transportError]) := by decide +kernel

/-- Each bound of R213, just outside. -/
theorem witness_OperandOutsideDomainEndsWithRangeErr :
    1 < (2 : Byte).toNat ∧ 2 < (3 : Byte).toNat ∧ 4 < (5 : Byte).toNat ∧ 5 < (6 : Byte).toNat ∧
    17 < (18 : Byte).toNat ∧ 24 < (25 : Byte).toNat ∧ 30 < (31 : Byte).toNat := by decide

theorem witness_NanOperandEndsWithNanErr : NaNWord nan ∧ NaNWord 0x7FF0000000000001 ∧ NaNWord 0xFFF8000000000001 := by
  decide

theorem witness_UnsetSwitchEndsWithUnsetErr :
    State.reset.impValid 0 = false ∧ State.reset.impValid 1 = false ∧ State.reset.clkValid = false := by decide

/-- A command that ends with a code from 1 to 4, and one that ends with 5. -/
theorem witness_ErrorsArePrecise :
    isCommand .getClk = true ∧ exec .getClk State.reset = .next (errorEnd 4 State.reset) ∧
    (errorEnd 4 State.reset).status.toNat = 4 ∧
    ∃ t, isCommand .meterpoll = true ∧
      exec .meterpoll (replying [bytes [], bytes [], bytes []]) = .next t ∧ t.status.toNat = 5 :=
  ⟨rfl, rfl, rfl, _, rfl, rfl, rfl⟩

theorem witness_ErrseenIsSticky :
    (∃ t, isCommand .save = true ∧ exec .save (ready 1) = .next t ∧ t.status = 0) ∧
    ∃ t, isCommand .save = true ∧ exec .save (replying [.answer .transportError]) = .next t ∧ t.status ≠ 0 :=
  ⟨⟨_, rfl, rfl, rfl⟩, _, rfl, rfl, by decide⟩

theorem witness_UnansweredRequestStopsTheStep :
    State.reset.replies = [] ∧
    (∃ t, exec .wSave State.reset = .next t ∧ t.trace ≠ State.reset.trace) ∧
    ∃ t, exec .getClk State.reset = .next t ∧ t.trace = State.reset.trace :=
  ⟨rfl, ⟨_, rfl, by intro h; exact List.cons_ne_nil _ _ h⟩, _, rfl, rfl⟩

theorem witness_OnlyTheHostStopsACommand :
    exec .save (replying [.silence]) = .fault .unanswered ∧
    exec .save (replying [.reset]) = .refused .resetInsideCommand ∧ isCommand .save = true := ⟨rfl, rfl, rfl⟩

theorem witness_GetAnswersTheStoredValue :
    let s : State := { State.reset with imp := #v[some .instrument, some .lineIn], clk := some .adat }
    s.imp.get 0 = some .instrument ∧ s.imp.get 1 = some .lineIn ∧ s.clk = some .adat := by decide

theorem witness_GetReturnsWhatWasSet :
    ¬ NaNWord 0xC072C00000000000 ∧ (∃ t, exec (.setatt (byteOf 4) 0xC072C00000000000) (ready 1) = .next t) ∧
    ∃ t, exec (.setgain (byteOf 17) (byteOf 5) 0xC072C00000000000)
      (replying [.answer .transportError]) = .next t :=
  ⟨by decide, ⟨_, rfl⟩, _, rfl⟩

/-- 95 S10: SETROUTE 3, M2 and then SETROUTE 3, ADAT2; and M2 still feeds destination 0. -/
theorem witness_RouterHoldsTheLastSource :
    ∃ t u, exec (.setroute (byteOf 3) (byteOf (busTag (.mix .m2)))) (ready 2) = .next t ∧ t.status = 0 ∧
      exec (.setroute (byteOf 3) (byteOf (busTag (.source .adat2)))) t = .next u ∧ u.status = 0 ∧
      (ready 2).route.get 0 = .source .off ∧ Answered 1 (ready 2) :=
  ⟨_, _, rfl, rfl, rfl, rfl, rfl, by decide⟩

theorem witness_SourcesAndGainsAreIndependent :
    (∃ t, exec (.setsrc 17 24) (ready 1) = .next t) ∧ ∃ t, exec (.setgain 18 6 nan) (ready 1) = .next t :=
  ⟨⟨_, rfl⟩, _, rfl⟩

theorem witness_FactoryEndsInTheFactoryTopology :
    AllSucceed 138 (ready 138) ∧ ∃ t, exec .factory (ready 138) = .next t ∧ t.status = 0 :=
  ⟨allSucceed_ready 138, next_of_ending (o := execFactory (ready 138)) test_factory_ok⟩

theorem witness_ZeroEndsSilentAndDisconnected :
    AllSucceed 136 (ready 136) ∧ ∃ t, exec .zero (ready 136) = .next t ∧ t.status = 0 :=
  ⟨allSucceed_ready 136, next_of_ending (o := execZero (ready 136)) test_zero_ok⟩

/-- An end with a TransportError, and an end with OK; the host answers in both. -/
theorem witness_BulkStopsAtTheFirstTransportError :
    (∃ t, exec .zero (replying [.answer .transportError]) = .next t) ∧ (∃ t, exec .factory (ready 138) = .next t) ∧
    Answered zeroOps.length (replying [.answer .transportError]) ∧ Answered factoryOps.length (ready 138) :=
  ⟨(next_of_ending (o := execZero _) test_zero_interrupted.1).imp fun _ h => h.1,
    (next_of_ending (o := execFactory _) test_factory_ok).imp fun _ h => h.1,
    by rw [zeroOps_length]; decide, by rw [factoryOps_length]; decide +kernel⟩

/-- The states along a METERPOLL, for any three blocks the host answers with. -/
theorem meterReads_of_replies (a b c : List Byte) :
    MeterReads (replying [bytes a, bytes b, bytes c]) a b c
      (logged readMix (logged readDaw (logged readIn (replying [bytes a, bytes b, bytes c])))) :=
  ⟨rfl, rfl, rfl, rfl, rfl⟩

theorem witness_MeterpollDeliversTheSnapshot :
    (∃ t, MeterReads (replying [bytes (zeros 36), bytes (zeros 12), bytes (zeros 16)])
      (zeros 36) (zeros 12) (zeros 16) t) ∧
    (zeros 36).length = 36 ∧ (zeros 12).length = 12 ∧ (zeros 16).length = 16 :=
  ⟨⟨_, meterReads_of_replies _ _ _⟩, rfl, rfl, rfl⟩

/-- A block one byte short, and one a byte long. -/
theorem witness_WrongBlockLengthEndsWithFormatErr :
    (∃ t, MeterReads (replying [bytes (zeros 35), bytes (zeros 12), bytes (zeros 17)])
      (zeros 35) (zeros 12) (zeros 17) t) ∧
    ¬ ((zeros 35).length = 36 ∧ (zeros 12).length = 12 ∧ (zeros 17).length = 16) ∧
    ¬ ((zeros 36).length = 36 ∧ (zeros 12).length = 12 ∧ (zeros 17).length = 16) :=
  ⟨⟨_, meterReads_of_replies _ _ _⟩, by decide, by decide⟩

/-- The three clauses: the first, the second and the third read fails. -/
theorem witness_MeterpollStopsAtTheFirstTransportError :
    (let s := replying [.answer .transportError];
      Answered 3 s ∧ answerTo readIn s = .transportError) ∧
    (let s := replying [bytes [1], .answer .transportError];
      Answered 3 s ∧ answerTo readIn s = .success [1] ∧ answerTo readDaw (logged readIn s) = .transportError) ∧
    (let s := replying [bytes [], bytes [1], .answer .transportError];
      Answered 3 s ∧ answerTo readIn s = .success [] ∧ answerTo readDaw (logged readIn s) = .success [1] ∧
        answerTo readMix (logged readDaw (logged readIn s)) = .transportError) :=
  ⟨⟨rfl, rfl⟩, ⟨rfl, rfl, rfl⟩, rfl, rfl, rfl, rfl⟩

theorem witness_AllZeroBlocksReadMinusInfinity :
    ∃ t, MeterReads (replying [bytes (zeros 36), bytes (zeros 12), bytes (zeros 16)])
      (List.replicate 36 0) (List.replicate 12 0) (List.replicate 16 0) t := ⟨_, meterReads_of_replies _ _ _⟩

/-- Two snapshots that agree in lanes 0 and 31 and not in lane 1. -/
theorem witness_SnapshotLanesAreIndependent :
    let a := zeros 36
    let b := [0, 0, 1, 1] ++ zeros 32
    (decodeMeterSnapshot a (zeros 12) (zeros 16)).isSome ∧ (decodeMeterSnapshot b (zeros 12) (zeros 16)).isSome ∧
    (a ++ zeros 12 ++ zeros 16)[0]? = (b ++ zeros 12 ++ zeros 16)[0]? ∧
    (a ++ zeros 12 ++ zeros 16)[1]? = (b ++ zeros 12 ++ zeros 16)[1]? ∧
    (a ++ zeros 12 ++ zeros 16)[62]? = (b ++ zeros 12 ++ zeros 16)[62]? ∧
    (a ++ zeros 12 ++ zeros 16)[63]? = (b ++ zeros 12 ++ zeros 16)[63]? := by decide +kernel

theorem witness_RequestKindEmitsItsOneRequest :
    Answered 1 (ready 1) ∧ attPayloadOk 0xFF 0x80 = true ∧ gainPayloadOk 0x00 0x06 = true ∧
    attPayloadOk 0x00 0x80 = true ∧ gainPayloadOk 0x00 0x80 = true := by decide

/-- The two other clauses of that statement. -/
theorem witness_RequestKindEmitsItsOneRequest_runs :
    (∃ t, isCommand (.wRoute 5 (.mix .m6)) = false ∧ exec (.wRoute 5 (.mix .m6)) (ready 1) = .next t) ∧
    InAddressMap (.out Config.setRequestCode (BitVec.ofNat 16 (0x0100 + 8 * 17 + 5)) 0x3c00
      [(gainToWire .posInf).1, (gainToWire .posInf).2]) := ⟨⟨_, rfl, rfl⟩, .gain 17 5 .posInf⟩

theorem witness_RequestOutsideTheMapIsRefused :
    (Instr.wImp 0 .lineIn).wellFormed = false ∧ (Instr.wRoute 6 (.mix .m1)).wellFormed = false := by decide

/-- A legal state that is not the reset state, and a step from it. -/
theorem witness_EveryStepKeepsLegal :
    let s : State := { ready 1 with status := 6, errseen := 0x7E, events := [.command ⟨0x40000000, 0⟩] }
    s.Legal ∧ ∃ t, step s = .next t :=
  ⟨⟨by decide, by decide, by decide, by decide⟩, _, rfl⟩

theorem witness_EveryStepEmitsInTheAddressMap :
    let s : State := { ready 1 with
      trace := [⟨.inp 0x03 0x0000 0x3c00 36, .transportError⟩], events := [.command ⟨0x80000000, 0⟩] }
    s.EmitsInMap ∧ (∃ t, step s = .next t) ∧
      ∃ t, step { s with order := some (.out 0x0902 0x0100 [.impCode .instrument, .byte 0]) } = .next t :=
  ⟨⟨fun e he => by rw [List.mem_singleton.mp he]; exact .inputMeters⟩, ⟨_, rfl⟩, _, rfl⟩

theorem witness_RequestsEmittedByEachCommand :
    (∃ t, exec .save (ready 1) = .next t ∧ t.status = 0) ∧
    (∃ t, exec .save (replying [.answer .transportError]) = .next t ∧ t.status = 6) ∧
    (∃ t, isCommand (.setimp 2 0) = true ∧ exec (.setimp 2 0) (ready 1) = .next t ∧ t.status.toNat = 2) ∧
    ∃ t, exec .getClk (ready 1) = .next t :=
  ⟨⟨_, rfl, rfl⟩, ⟨_, rfl, rfl⟩, ⟨_, rfl, rfl, rfl⟩, _, rfl⟩

theorem witness_InstructionsLeaveWhatTheyDoNotOwn :
    (∃ t, exec .meterpoll (replying [.answer .transportError]) = .next t) ∧
    ∀ a b d, Instr.meterpoll ∉ [.setimp a b, .setclk b, .setmute a b, .setatt a d, .setsrc a b, .setgain a b d,
      .setroute a b, .factory, .zero] := ⟨⟨_, rfl⟩, fun a b d => by simp⟩

theorem witness_RecordedAnswersAreTheListedReplies :
    ∃ t new, exec .save (ready 1) = .next t ∧ t.trace = (ready 1).trace ++ new ∧ 0 < new.length ∧
      (ready 1).replies[0]? = some (.answer (.success [])) ∧
      new[0]? = some ⟨saveRequest, .success []⟩ := ⟨_, [⟨saveRequest, .success []⟩], rfl, rfl, by decide, rfl, rfl⟩

end Sys2Proof.Tests
end

/-! ## The code tables (spec/00_scope.md R8)

Every code of the 31 buses, a source's or a matrix output's, is `busCode` of the bus's tag. So all that R8 fixes of
SRC_CODE and MIX_CODE together is that `busByte`, one table for all buses, is injective. -/

namespace Sys2Proof.Machine

/-- A source keeps its tag as a bus (R22). -/
theorem busTag_source (s : SignalSource) : busTag (.source s) = sourceTag s := by
  cases s <;> rfl

theorem busByte_eq_busCode (b : MixBus) : busByte b = busCode (BitVec.ofNat 8 (busTag b)) := by
  cases b with
  | source s => rw [busTag_source]; rfl
  | mix m => rfl

theorem srcCode_off : srcCode .off = 0xFF := rfl

/-- A byte that names its member tells the members apart. -/
theorem injective_of_names {α : Type} {tag : α → Byte} {member? : Byte → Option α}
    (names : ∀ x, member? (tag x) = some x) : Function.Injective tag := fun x y h =>
  Option.some.inj (by rw [← names x, ← names y, h])

theorem busByte_injective : Function.Injective busByte := fun a b h => by
  rw [busByte_eq_busCode, busByte_eq_busCode] at h
  exact injective_of_names mixBus?_tag (busCode_injective h)

theorem srcCode_injective : Function.Injective srcCode := fun _ _ h =>
  MixBus.source.inj (busByte_injective h)

theorem mixCode_injective : Function.Injective mixCode := fun _ _ h =>
  MixBus.mix.inj (busByte_injective h)

theorem srcCode_ne_mixCode (s : SignalSource) (m : MixOut) : srcCode s ≠ mixCode m := fun h =>
  MixBus.noConfusion (busByte_injective (a₁ := .source s) (a₂ := .mix m) h)

theorem impCode_injective : Function.Injective impCode :=
  Config.impPermutation.injective.comp (injective_of_names impMode?_tag)

theorem clkCode_injective : Function.Injective clkCode :=
  Config.clkPermutation.injective.comp (injective_of_names clock?_tag)

/-- Settles O12: SRC_CODE and MIX_CODE are the two halves of the injective table `busByte`, and the other two tables
are a permutation after the tag. -/
theorem codeTablesAreInjective : Obligations.CodeTablesAreInjective :=
  ⟨srcCode_off, srcCode_injective, mixCode_injective, srcCode_ne_mixCode, impCode_injective, clkCode_injective⟩

end Sys2Proof.Machine

/-! ## The exact value of a binary64 word (spec/00_scope.md R11)

The magnitudes of the words of one exponent lie below the power of two at which those of the next exponent begin. So
a magnitude gives back its exponent, and then its fraction; with the sign these are the word. -/

namespace Sys2Proof.Machine

section

variable {d e : Dword}

/-! The three fields as arithmetic on the word. -/

theorem signOf_eq (d : Dword) : signOf d = decide (2 ^ 63 ≤ d.toNat) := by
  unfold signOf
  rw [← BitVec.msb_eq_getLsbD_last (w := 64) d, BitVec.msb_eq_decide]

theorem exponentOf_eq (d : Dword) : exponentOf d = d.toNat / 2 ^ 52 % 2 ^ 11 := by
  rw [exponentOf, BitVec.extractLsb'_toNat, Nat.shiftRight_eq_div_pow]

theorem fractionOf_eq (d : Dword) : fractionOf d = d.toNat % 2 ^ 52 := by
  rw [fractionOf, BitVec.extractLsb'_toNat, Nat.shiftRight_zero]

theorem fractionOf_lt (d : Dword) : fractionOf d < 2 ^ 52 := (d.extractLsb' 0 52).isLt

/-- The sign, the exponent and the fraction are the whole word. -/
theorem eq_of_fields (hs : signOf d = signOf e) (he : exponentOf d = exponentOf e)
    (hf : fractionOf d = fractionOf e) : d = e := by
  rw [signOf_eq, signOf_eq, decide_eq_decide] at hs
  rw [exponentOf_eq, exponentOf_eq] at he
  rw [fractionOf_eq, fractionOf_eq] at hf
  exact BitVec.eq_of_toNat_eq (by omega)

/-! The magnitude. -/

theorem magnitudeOf_subnormal (h : exponentOf d = 0) : magnitudeOf d = fractionOf d := if_pos h

theorem magnitudeOf_normal (h : exponentOf d ≠ 0) :
    magnitudeOf d = (2 ^ 52 + fractionOf d) * 2 ^ (exponentOf d - 1) := if_neg h

theorem magnitudeOf_lt (d : Dword) : magnitudeOf d < 2 ^ (52 + exponentOf d) := by
  have hf := fractionOf_lt d
  by_cases h : exponentOf d = 0
  · rw [magnitudeOf_subnormal h, h]; exact hf
  · calc magnitudeOf d = (2 ^ 52 + fractionOf d) * 2 ^ (exponentOf d - 1) := magnitudeOf_normal h
      _ < 2 ^ 53 * 2 ^ (exponentOf d - 1) := Nat.mul_lt_mul_of_pos_right (by omega) (by positivity)
      _ = 2 ^ (52 + exponentOf d) := by rw [← pow_add]; congr 1; omega

theorem le_magnitudeOf (h : exponentOf d ≠ 0) : 2 ^ (51 + exponentOf d) ≤ magnitudeOf d :=
  calc 2 ^ (51 + exponentOf d) = 2 ^ 52 * 2 ^ (exponentOf d - 1) := by rw [← pow_add]; congr 1; omega
    _ ≤ (2 ^ 52 + fractionOf d) * 2 ^ (exponentOf d - 1) := Nat.mul_le_mul_right _ (Nat.le_add_right _ _)
    _ = magnitudeOf d := (magnitudeOf_normal h).symm

theorem magnitudeOf_lt_of_exponentOf_lt (h : exponentOf d < exponentOf e) : magnitudeOf d < magnitudeOf e :=
  calc magnitudeOf d < 2 ^ (52 + exponentOf d) := magnitudeOf_lt d
    _ ≤ 2 ^ (51 + exponentOf e) := Nat.pow_le_pow_right (by decide) (by omega)
    _ ≤ magnitudeOf e := le_magnitudeOf (by omega)

theorem exponentOf_eq_of_magnitudeOf_eq (h : magnitudeOf d = magnitudeOf e) : exponentOf d = exponentOf e := by
  rcases lt_trichotomy (exponentOf d) (exponentOf e) with hlt | heq | hgt
  · exact absurd h (magnitudeOf_lt_of_exponentOf_lt hlt).ne
  · exact heq
  · exact absurd h (magnitudeOf_lt_of_exponentOf_lt hgt).ne'

theorem fractionOf_eq_of_magnitudeOf_eq (h : magnitudeOf d = magnitudeOf e) : fractionOf d = fractionOf e := by
  have he := exponentOf_eq_of_magnitudeOf_eq h
  by_cases h0 : exponentOf d = 0
  · rwa [magnitudeOf_subnormal h0, magnitudeOf_subnormal (he ▸ h0)] at h
  · rw [magnitudeOf_normal h0, magnitudeOf_normal (he ▸ h0), he] at h
    exact Nat.add_left_cancel (Nat.eq_of_mul_eq_mul_right (by positivity) h)

/-- Only the two zeros have magnitude 0: all bits below the sign are 0. -/
theorem extractLsb'_eq_zero_of_magnitudeOf_eq_zero (h : magnitudeOf d = 0) : d.extractLsb' 0 63 = 0 := by
  have he : exponentOf d = 0 := by
    by_contra h0
    exact absurd (le_magnitudeOf h0) (by rw [h]; exact Nat.not_le.mpr (by positivity))
  rw [magnitudeOf_subnormal he, fractionOf_eq] at h
  rw [exponentOf_eq] at he
  apply BitVec.eq_of_toNat_eq
  rw [BitVec.extractLsb'_toNat, Nat.shiftRight_zero]
  change d.toNat % 2 ^ 63 = 0
  omega

/-! What value a word has: none for a NaN, an infinity, or its signed magnitude. -/

theorem exactValue_of_nan (h : NaNWord d) : exactValue d = none := if_pos ((isNaN_iff d).mpr h)

theorem exactValue_of_infinity (h : ¬ NaNWord d) (he : exponentOf d = 2047) :
    exactValue d = some (if signOf d then .negInf else .posInf) := by
  rw [exactValue, if_neg (mt (isNaN_iff d).mp h), if_pos he]

theorem exactValue_of_finite (he : exponentOf d ≠ 2047) :
    exactValue d = some (.finite (if signOf d then -(magnitudeOf d : Int) else magnitudeOf d)) := by
  have h : ¬ isNaN d = true := by simp [isNaN, he]
  rw [exactValue, if_neg h, if_neg he]

theorem exactValue_eq_none_iff (d : Dword) : exactValue d = none ↔ NaNWord d := by
  refine ⟨fun h => ?_, exactValue_of_nan⟩
  by_contra hn
  by_cases he : exponentOf d = 2047
  · simp [exactValue_of_infinity hn he] at h
  · simp [exactValue_of_finite he] at h

/-- An infinity has fraction 0. -/
theorem fractionOf_of_infinity (h : ¬ NaNWord d) (he : exponentOf d = 2047) : fractionOf d = 0 := by
  rw [← isNaN_iff] at h
  simpa [isNaN, he] using h

/-- An infinity has another value than a finite word. -/
theorem exactValue_infinity_ne_finite (h : ¬ NaNWord d) (hd : exponentOf d = 2047) (he : exponentOf e ≠ 2047) :
    exactValue d ≠ exactValue e := by
  rw [exactValue_of_infinity h hd, exactValue_of_finite he]
  cases signOf d <;> simp

theorem eq_of_exactValue_eq_of_infinity (hd : ¬ NaNWord d) (he : ¬ NaNWord e) (hd' : exponentOf d = 2047)
    (he' : exponentOf e = 2047) (h : exactValue d = exactValue e) : d = e := by
  have hs : signOf d = signOf e := by
    rw [exactValue_of_infinity hd hd', exactValue_of_infinity he he'] at h
    cases hs : signOf d <;> cases ht : signOf e <;> simp [hs, ht] at h ⊢
  exact eq_of_fields hs (hd'.trans he'.symm)
    ((fractionOf_of_infinity hd hd').trans (fractionOf_of_infinity he he').symm)

/-- Two integers given by sign and magnitude are equal only when both parts agree, or at 0. -/
theorem signed_eq {s t : Bool} {m n : Nat}
    (h : (if s then -(m : Int) else m) = (if t then -(n : Int) else n)) :
    (s = t ∧ m = n) ∨ (m = 0 ∧ n = 0) := by
  cases s <;> cases t <;> grind

theorem eq_or_zeros_of_exactValue_eq_of_finite (hd : exponentOf d ≠ 2047) (he : exponentOf e ≠ 2047)
    (h : exactValue d = exactValue e) : d = e ∨ (d.extractLsb' 0 63 = 0 ∧ e.extractLsb' 0 63 = 0) := by
  rw [exactValue_of_finite hd, exactValue_of_finite he, Option.some.injEq, ExactDb.finite.injEq] at h
  rcases signed_eq h with ⟨hs, hm⟩ | ⟨hm, hn⟩
  · exact .inl (eq_of_fields hs (exponentOf_eq_of_magnitudeOf_eq hm) (fractionOf_eq_of_magnitudeOf_eq hm))
  · exact .inr ⟨extractLsb'_eq_zero_of_magnitudeOf_eq_zero hm, extractLsb'_eq_zero_of_magnitudeOf_eq_zero hn⟩

end

/-- Settles O17: by the two classes of words that have a value, the infinities and the finite words. -/
theorem exactValueSeparatesWords : Obligations.ExactValueSeparatesWords := by
  refine ⟨exactValue_eq_none_iff, fun d e hd h => ?_⟩
  have he : ¬ NaNWord e := by rwa [← exactValue_eq_none_iff, ← h, exactValue_eq_none_iff]
  by_cases hd' : exponentOf d = 2047 <;> by_cases he' : exponentOf e = 2047
  · exact .inl (eq_of_exactValue_eq_of_infinity hd he hd' he' h)
  · exact absurd h (exactValue_infinity_ne_finite hd hd' he')
  · exact absurd h.symm (exactValue_infinity_ne_finite he he' hd')
  · exact eq_or_zeros_of_exactValue_eq_of_finite hd' he' h

end Sys2Proof.Machine

/-! ## What an instruction ensures of the state it leaves

A command commits set operations, emits requests, and then comes to its end; a request kind emits one request. So what
every commit and every request keeps, `P`, holds until the command ends. This is proved once here, along the shared
operations of Machine/Ops.lean; the invariants and frames below follow from it. -/

namespace Sys2Proof.Machine

/-- The state in which the step goes on, if it does, satisfies `P`. -/
def Ensures (P : State → Prop) (o : StepOutcome) : Prop := ∀ t, o = .next t → P t

/-- A command came to its end, in one of the two ways of spec/60_exceptions.md R211, from a state of which `P` holds. -/
inductive Ended (P : State → Prop) : State → Prop
  | ok {u : State} (r : Result) (h : P u) : Ended P (finish r u)
  | error {u : State} (e : Status) (he : e ≠ .ok) (h : P u) : Ended P (raise e u)

/-- The set operations an instruction can commit: the one its operands name once they passed their checks, or those of
its program. -/
inductive Commits : Instr → SetOp → Prop
  | setimp (a b : Byte) (c : Fin 2) (mode : ImpMode) : Commits (.setimp a b) (.imp c mode)
  | setclk (b : Byte) (clock : Clock) : Commits (.setclk b) (.clk clock)
  | setmute (a b : Byte) (k : Fin 5) (m : Bool) : Commits (.setmute a b) (.mute k m)
  | setatt (a : Byte) {d : Dword} (k : Fin 5) {x : DbOperand} (hx : dbOperand? d = some x) :
    Commits (.setatt a d) (.att k x)
  | setsrc (a b : Byte) (i : Fin 18) (src : SignalSource) : Commits (.setsrc a b) (.src i src)
  | setgain (a b : Byte) {d : Dword} (i : Fin 18) (bus : Fin 6) {x : DbOperand} (hx : dbOperand? d = some x) :
    Commits (.setgain a b d) (.gain i bus x)
  | setroute (a b : Byte) (d : Fin 6) (bus : MixBus) : Commits (.setroute a b) (.route d bus)
  | factory {op : SetOp} (h : op ∈ factoryOps) : Commits .factory op
  | zero {op : SetOp} (h : op ∈ zeroOps) : Commits .zero op

section

variable {P : State → Prop} {s done : State}

theorem Ensures.next (h : P done) : Ensures P (.next done) := by
  rintro t ⟨⟩
  exact h

theorem Ensures.require {α : Type} {x : Option α} {e : Status} {k : α → StepOutcome} (he : P (raise e s))
    (hk : ∀ v, x = some v → Ensures P (k v)) : Ensures P (require x e s k) := by
  cases x with
  | none => exact .next he
  | some v => exact hk v rfl

theorem Ensures.conduct {n : Nat} (h : P done) : Ensures P (conduct n s done) := by
  intro t ht
  obtain ⟨-, rfl⟩ := conduct_next ht
  exact h

theorem Ensures.issue {allowed : Bool} {r : ControlRequest} (h : P (emit r s).2) :
    Ensures P (issue allowed r s) := by
  intro t ht
  obtain ⟨-, -, rfl⟩ := issue_next ht
  exact h

theorem Ensures.mono {Q : State → Prop} {o : StepOutcome} (h : Ensures P o) (hPQ : ∀ t, P t → Q t) : Ensures Q o :=
  fun t ht => hPQ t (h t ht)

theorem Ended.settle {x : Answer × State} (h : P x.2) : Ended P (settle x) := by
  rw [settle_eq]
  split
  · exact .error _ (by decide) h
  · exact .ok _ h

theorem Ended.runOps (emits : ∀ r u, P u → P (emit r u).2) {ops : List SetOp}
    (commits : ∀ op ∈ ops, ∀ u, P u → P (commit op u)) (h : P s) : Ended P (runOps ops s) := by
  induction ops generalizing s with
  | nil => exact .ok _ h
  | cons op rest ih =>
    obtain ⟨first, later⟩ := List.forall_mem_cons.mp commits
    have h' := emits (requestOf op) _ (first s h)
    rw [runOps_cons]
    split
    · exact .error _ (by decide) h'
    · exact ih later h'

theorem Ended.pollMeters (emits : ∀ r u, P u → P (emit r u).2) (h : P s) : Ended P (pollMeters s) := by
  obtain ⟨t, reads, ends⟩ := pollMeters_cases s
  have ht : P t := by
    rcases reads with rfl | rfl | rfl
    · exact emits _ _ h
    · exact emits _ _ (emits _ _ h)
    · exact emits _ _ (emits _ _ (emits _ _ h))
  rcases ends with h' | h' | ⟨v, h'⟩ <;> rw [h']
  · exact .error _ (by decide) ht
  · exact .error _ (by decide) ht
  · exact .ok _ ht

/-- A command that goes on comes to its end, and what its commits and requests keep holds until then. -/
theorem exec_command_ensures {i : Instr} (hi : isCommand i = true) (emits : ∀ r u, P u → P (emit r u).2)
    (commits : ∀ op, Commits i op → ∀ u, P u → P (commit op u)) (h : P s) : Ensures (Ended P) (exec i s) := by
  have range : Ended P (raise .rangeErr s) := .error _ (by decide) h
  have nan : Ended P (raise .nanErr s) := .error _ (by decide) h
  have unset : Ended P (raise .unsetErr s) := .error _ (by decide) h
  have answer (r : Result) : Ensures (Ended P) (.next (finish r s)) := .next (.ok r h)
  have run (ops : List SetOp) (hops : ∀ op ∈ ops, Commits i op) : Ensures (Ended P) (conductOps ops s) :=
    .conduct (.runOps emits (fun op hop => commits op (hops op hop)) h)
  have runOne (op : SetOp) (hop : Commits i op) : Ensures (Ended P) (conductOps [op] s) :=
    run [op] (List.forall_mem_singleton.mpr hop)
  cases i
  case setimp => exact .require range fun _ _ => .require range fun _ _ => runOne _ (.setimp ..)
  case setclk => exact .require range fun _ _ => runOne _ (.setclk ..)
  case setmute => exact .require range fun _ _ => .require range fun _ _ => runOne _ (.setmute ..)
  case setatt => exact .require range fun _ _ => .require nan fun _ hx => runOne _ (.setatt _ _ hx)
  case setsrc => exact .require range fun _ _ => .require range fun _ _ => runOne _ (.setsrc ..)
  case setgain =>
    exact .require range fun _ _ => .require range fun _ _ => .require nan fun _ hx => runOne _ (.setgain _ _ _ _ hx)
  case setroute => exact .require range fun _ _ => .require range fun _ _ => runOne _ (.setroute ..)
  case save => exact .conduct (.settle (emits _ _ h))
  case factory => exact run factoryOps fun _ => .factory
  case zero => exact run zeroOps fun _ => .zero
  case meterpoll => exact .conduct (.pollMeters emits h)
  case cvtmeter => exact answer _
  case cvtatt | cvtgain => exact .require nan fun _ _ => answer _
  case getMsrc | getRoute | getMute | getAtt => exact .require range fun _ _ => answer _
  case getMgain => exact .require range fun _ _ => .require range fun _ _ => answer _
  case getImp => exact .require range fun _ _ => .require unset fun _ _ => answer _
  case getClk => exact .require unset fun _ _ => answer _
  all_goals simp [isCommand, encode] at hi

/-- What the commits and the requests of an instruction keep, and the end of a command too, the instruction keeps. -/
theorem exec_ensures {i : Instr} (emits : ∀ r u, P u → P (emit r u).2)
    (commits : ∀ op, Commits i op → ∀ u, P u → P (commit op u)) (ends : ∀ t, Ended P t → P t) (h : P s) :
    Ensures P (exec i s) := by
  cases hi : isCommand i with
  | true => exact (exec_command_ensures hi emits commits h).mono ends
  | false =>
    obtain ⟨r, hr⟩ := exec_request_shape i s hi
    rw [hr]
    exact .issue (emits r s h)

end

end Sys2Proof.Machine

/-! ## The legal states (spec/10_state.md R37) -/

namespace Sys2Proof.Machine

/-- Overwriting one entry of a vector keeps what holds of every entry. -/
theorem forall_get_set {α : Type} {n : Nat} {P : α → Prop} {v : Vector α n} {x : α} (hv : ∀ j, P (v.get j))
    (hx : P x) (i j : Fin n) : P ((v.set i x).get j) := by
  rw [Vector.get_eq_getElem, Vector.getElem_set]
  split
  · exact hx
  · exact hv j

theorem statusByte_toNat (e : Status) : (statusByte e).toNat = statusCode e := by cases e <;> rfl

theorem statusCode_le (e : Status) : statusCode e ≤ 6 := by cases e <;> decide

/-- The errors have codes 1 to 6, so none sets bit 0 or bit 7 of ERRSEEN (R33). -/
theorem errorBit_and_unused {e : Status} (he : e ≠ .ok) : errorBit e &&& 0x81 = 0 := by
  cases e
  case ok => exact absurd rfl he
  all_goals rfl

theorem errseenAfter_and_unused {old : Byte} {e : Status} (he : e ≠ .ok) (h : old &&& 0x81 = 0) :
    errseenAfter old e &&& 0x81 = 0 := by
  rw [errseenAfter, BitVec.and_or_distrib_right, h, errorBit_and_unused he]
  rfl

/-- The dB operand of a set operation, if it has one, is no NaN. -/
def SetOp.Numeric : SetOp → Prop
  | .att _ d | .gain _ _ d => ¬ NaNWord d.bits
  | .imp _ _ | .clk _ | .mute _ _ | .src _ _ | .route _ _ => True

section

variable {s : State}

theorem State.Legal.raise (h : s.Legal) {e : Status} (he : e ≠ .ok) : (raise e s).Legal where
  gain_not_nan := h.gain_not_nan
  att_not_nan := h.att_not_nan
  status_code := (statusByte_toNat e).trans_le (statusCode_le e)
  errseen_bits := errseenAfter_and_unused he h.errseen_bits

theorem State.Legal.finish (h : s.Legal) (r : Result) : (finish r s).Legal :=
  { h with status_code := (statusByte_toNat .ok).trans_le (statusCode_le .ok) }

theorem State.Legal.of_ended (h : Ended State.Legal s) : s.Legal := by
  cases h with
  | ok r h => exact h.finish r
  | error e he h => exact h.raise he

theorem State.Legal.emit (h : s.Legal) (r : ControlRequest) : (emit r s).2.Legal := { h with }

theorem State.Legal.commit (h : s.Legal) {op : SetOp} (hop : op.Numeric) : (commit op s).Legal := by
  cases op
  case att k d => exact { h with att_not_nan := forall_get_set (P := (¬ NaNWord ·)) h.att_not_nan hop k }
  case gain i b d =>
    have row : ∀ b', ¬ NaNWord (((s.mgain.get i).set b d.bits).get b') :=
      forall_get_set (P := (¬ NaNWord ·)) (h.gain_not_nan i) hop b
    refine { h with gain_not_nan := fun i' => ?_ }
    rw [commit_gain_mgain]
    exact forall_get_set (P := fun v : Vector Dword 6 => ∀ b', ¬ NaNWord (v.get b')) h.gain_not_nan row i i'
  all_goals exact { h with }

end

/-! What an instruction commits is numeric: an operand passed the NaN check (spec/60_exceptions.md R214), and the bulk
programs store two numbers alone (spec/42_bulk_programs.md R172, R176). -/

theorem not_nanWord_of_dbOperand? {d : Dword} {x : DbOperand} (h : dbOperand? d = some x) : ¬ NaNWord x.bits := by
  obtain ⟨hbits, hvalue⟩ := dbOperand?_eq_some.mp h
  rw [hbits, ← exactValue_eq_none_iff, hvalue]
  exact Option.some_ne_none _

theorem gainOps_numeric {gain : Fin 18 → Fin 6 → DbOperand} (h : ∀ i b, ¬ NaNWord (gain i b).bits) :
    ∀ op ∈ gainOps gain, op.Numeric := by
  intro op hop
  obtain ⟨i, -, hop⟩ := List.mem_flatMap.mp hop
  obtain ⟨b, -, rfl⟩ := List.mem_map.mp hop
  exact h i b

theorem unmuteOps_numeric : ∀ op ∈ unmuteOps, op.Numeric := by simp [unmuteOps, SetOp.Numeric]

theorem floorDb_not_nan : ¬ NaNWord floorDb.bits := by decide

theorem factoryGain_not_nan (i : Fin 18) (b : Fin 6) : ¬ NaNWord (factoryGain i b).bits := by
  unfold factoryGain
  split <;> decide

theorem factoryOps_numeric : ∀ op ∈ factoryOps, op.Numeric := by
  have gains := gainOps_numeric factoryGain_not_nan
  have unmutes := unmuteOps_numeric
  simp only [factoryOps, List.forall_mem_append, List.forall_mem_map]
  exact ⟨⟨⟨⟨fun _ _ => trivial, fun _ _ => trivial⟩, gains⟩, unmutes⟩, fun _ _ => trivial⟩

theorem zeroOps_numeric : ∀ op ∈ zeroOps, op.Numeric := by
  have gains := gainOps_numeric fun _ _ => floorDb_not_nan
  have unmutes := unmuteOps_numeric
  simp only [zeroOps, List.forall_mem_append, List.forall_mem_map]
  exact ⟨⟨⟨gains, fun _ _ => trivial⟩, fun _ _ => trivial⟩, unmutes⟩

theorem Commits.numeric {i : Instr} {op : SetOp} (h : Commits i op) : op.Numeric := by
  cases h with
  | setatt _ _ hx | setgain _ _ _ _ hx => exact not_nanWord_of_dbOperand? hx
  | factory hop => exact factoryOps_numeric op hop
  | zero hop => exact zeroOps_numeric op hop
  | setimp | setclk | setmute | setsrc | setroute => trivial

theorem State.Legal.exec {s : State} (h : s.Legal) (i : Instr) : Ensures State.Legal (exec i s) :=
  exec_ensures (fun r _ hu => hu.emit r) (fun _ hop _ hu => hu.commit hop.numeric) (fun _ => .of_ended) h

theorem State.Legal.fetch {s : State} (h : s.Legal) : (fetch s).2.Legal := by
  unfold Machine.fetch
  split <;> exact { h with }

theorem reset_legal : State.reset.Legal where
  gain_not_nan i b := by
    rw [State.reset, Vector.get_replicate, Vector.get_replicate]
    decide
  att_not_nan k := by
    rw [State.reset, Vector.get_replicate]
    decide
  status_code := by decide
  errseen_bits := rfl

theorem resetBlock_legal (s : State) : (resetBlock s).Legal := { reset_legal with }

theorem State.Legal.step {s : State} (h : s.Legal) : Ensures State.Legal (step s) := by
  have taken := h.fetch
  unfold Machine.step
  split <;> rename_i hf <;> rw [hf] at taken
  · exact .next taken
  · exact .next (resetBlock_legal _)
  · exact taken.exec _
  · exact .next (taken.raise (by decide))
  · exact taken.exec _
  · nofun

/-- Settles O54: taking a word changes the ports alone, and what an instruction stores is numeric. -/
theorem everyStepKeepsLegal : Obligations.EveryStepKeepsLegal := fun _ t h => h.step t

/-- Settles O56: every entry of the reset state is the same word, and no NaN. -/
theorem resetIsLegalAndHasEmittedNothing : Obligations.ResetIsLegalAndHasEmittedNothing :=
  ⟨reset_legal, ⟨nofun⟩, rfl, rfl⟩

end Sys2Proof.Machine

/-! ## STATUS and ERRSEEN at the end of a command (spec/10_state.md R32, R33) -/

namespace Sys2Proof.Machine

theorem statusByte_ne_zero {e : Status} (he : e ≠ .ok) : statusByte e ≠ 0 := by
  cases e
  case ok => exact absurd rfl he
  all_goals decide

theorem errseenAfter_and_self (old : Byte) (e : Status) : errseenAfter old e &&& old = old := by
  rw [errseenAfter]
  ext i
  simp +contextual

/-- Only the end of a command writes ERRSEEN. -/
theorem exec_errseen_until_end {i : Instr} (hi : isCommand i = true) (s : State) :
    Ensures (Ended fun u => u.errseen = s.errseen) (exec i s) :=
  exec_command_ensures hi (fun _ _ hu => hu) (fun op _ u hu => (commit_errseen op u).trans hu) rfl

/-- Settles O36: by the two ways a command ends. -/
theorem errseenIsSticky : Obligations.ErrseenIsSticky := by
  intro i s t hi h
  cases exec_errseen_until_end hi s t h with
  | ok r hu =>
    rw [finish_status, finish_errseen, hu, statusByte_toNat]
    exact ⟨statusCode_le .ok, fun _ => rfl, fun h0 => absurd rfl h0, BitVec.and_self⟩
  | error e he hu =>
    rw [raise_status, raise_errseen, raise_result, hu, statusByte_toNat]
    exact ⟨statusCode_le e, fun h0 => absurd h0 (statusByte_ne_zero he), fun _ => ⟨rfl, rfl⟩,
      errseenAfter_and_self _ _⟩

end Sys2Proof.Machine

/-! ## What an instruction leaves unchanged (spec/10_state.md R20, R36, spec/20_memory.md R61) -/

namespace Sys2Proof.Machine

/-- No instruction takes or adds an event or a request order; a step takes them before it runs one. -/
theorem exec_ports (i : Instr) (s : State) :
    Ensures (fun t => t.events = s.events ∧ t.order = s.order) (exec i s) := by
  refine exec_ensures (fun _ _ hu => hu) (fun op _ u hu => ?_) (fun t ht => ?_) ⟨rfl, rfl⟩
  · rwa [commit_events, commit_order]
  · cases ht with
    | ok _ hu | error _ _ hu => exact hu

theorem SameShadow.of_ended {s t : State} (h : Ended (SameShadow s) t) : SameShadow s t := by
  cases h with
  | ok r h => exact h.trans (.of_finish r)
  | error e _ h => exact h.trans (.of_raise e)

/-- An instruction that commits nothing writes no shadow register. -/
theorem exec_sameShadow {i : Instr} (hi : ∀ op, ¬ Commits i op) (s : State) : Ensures (SameShadow s) (exec i s) :=
  exec_ensures (fun r _ hu => hu.trans (.of_emit r)) (fun op hop => absurd hop (hi op)) (fun _ => .of_ended) .rfl'

/-- Only the set commands and the bulk commands commit. -/
theorem Commits.mem {i : Instr} {op : SetOp} (h : Commits i op) :
    ∃ a b d, i ∈ [.setimp a b, .setclk b, .setmute a b, .setatt a d, .setsrc a b, .setgain a b d, .setroute a b,
      .factory, .zero] := by
  cases h with
  | setimp a b | setmute a b | setsrc a b | setroute a b => exact ⟨a, b, 0, by simp⟩
  | setclk b => exact ⟨0, b, 0, by simp⟩
  | @setatt a d => exact ⟨a, 0, d, by simp⟩
  | @setgain a b d => exact ⟨a, b, d, by simp⟩
  | factory | zero => exact ⟨0, 0, 0, by simp⟩

/-- Settles O59: no instruction writes a port of the host, and only an instruction that commits writes a shadow
register. -/
theorem instructionsLeaveWhatTheyDoNotOwn : Obligations.InstructionsLeaveWhatTheyDoNotOwn := by
  intro i s t h
  obtain ⟨events, order⟩ := exec_ports i s t h
  refine ⟨events, order, fun hi => exec_sameShadow (fun op hop => ?_) s t h⟩
  obtain ⟨a, b, d, hmem⟩ := hop.mem
  exact hi a b d hmem

end Sys2Proof.Machine

/-! ## What SETATT and SETGAIN store, and what GET reads of it (spec/10_state.md R26, R29) -/

namespace Sys2Proof.Machine

theorem SameShadow.settle {s : State} {x : Answer × State} (h : SameShadow s x.2) : SameShadow s (settle x) :=
  .of_ended (.settle h)

/-- A set command that passed its checks leaves its commit in the shadow registers, whatever the answer. -/
theorem conductOps_one_sameShadow (op : SetOp) (s : State) :
    Ensures (SameShadow (commit op s)) (conductOps [op] s) := by
  refine .conduct ?_
  rw [runOps_one]
  exact .settle (.of_emit _)

theorem exists_dbOperand?_of_not_nanWord {d : Dword} (h : ¬ NaNWord d) : ∃ v, dbOperand? d = some ⟨d, v⟩ := by
  rw [← exactValue_eq_none_iff] at h
  obtain ⟨v, hv⟩ := Option.ne_none_iff_exists'.mp h
  exact ⟨v, dbOperand?_of_exactValue hv⟩

theorem exec_setatt_stores {d : Dword} (hd : ¬ NaNWord d) (k : Fin 5) (s : State) :
    Ensures (fun t => t.att.get k = d) (exec (.setatt (byteOf k.val) d) s) := by
  obtain ⟨v, hv⟩ := exists_dbOperand?_of_not_nanWord hd
  have run : exec (.setatt (byteOf k.val) d) s = conductOps [.att k ⟨d, v⟩] s := by
    simp only [exec, execSetatt, outputBus?_ofNat, hv, require_some]
  rw [run]
  refine (conductOps_one_sameShadow _ s).mono fun t ht => ?_
  rw [ht.att, commit_att_att, Vector.get_eq_getElem, Vector.getElem_set_self]

theorem exec_setgain_stores {d : Dword} (hd : ¬ NaNWord d) (i : Fin 18) (b : Fin 6) (s : State) :
    Ensures (fun t => (t.mgain.get i).get b = d) (exec (.setgain (byteOf i.val) (byteOf b.val) d) s) := by
  obtain ⟨v, hv⟩ := exists_dbOperand?_of_not_nanWord hd
  have run : exec (.setgain (byteOf i.val) (byteOf b.val) d) s = conductOps [.gain i b ⟨d, v⟩] s := by
    simp only [exec, execSetgain, matrixInput?_ofNat, matrixBus?_ofNat, hv, require_some]
  rw [run]
  refine (conductOps_one_sameShadow _ s).mono fun t ht => ?_
  rw [ht.mgain, commit_gain_mgain, Vector.get_eq_getElem, Vector.get_eq_getElem, Vector.getElem_set_self,
    Vector.getElem_set_self]

theorem exec_getAtt (k : Fin 5) (t : State) :
    exec (.getAtt (byteOf k.val)) t = .next (okEnd (.word (t.att.get k)) t) := by
  simp only [exec, execGetAtt, outputBus?_ofNat, require_some]
  rfl

theorem exec_getMgain (i : Fin 18) (b : Fin 6) (t : State) :
    exec (.getMgain (byteOf i.val) (byteOf b.val)) t = .next (okEnd (.word ((t.mgain.get i).get b)) t) := by
  simp only [exec, execGetMgain, matrixInput?_ofNat, matrixBus?_ofNat, require_some]
  rfl

/-- Settles O40: a commit stores the word of the operand, and GET reads the stored word. -/
theorem getReturnsWhatWasSet : Obligations.GetReturnsWhatWasSet := by
  intro s t d hd
  constructor
  · intro k h
    rw [exec_getAtt, exec_setatt_stores hd k s t h]
  · intro i b h
    rw [exec_getMgain, exec_setgain_stores hd i b s t h]

end Sys2Proof.Machine

/-! ## What a step takes, and the tags (spec/10_state.md R21-R23, R31, spec/30_encoding.md R70) -/

namespace Sys2Proof.Machine

theorem fetch_command {s : State} {cmd : Command} {rest : List HostEvent} (ho : s.order = none)
    (he : s.events = .command cmd :: rest) :
    fetch s = (.command (decode (.command cmd)), { s with events := rest }) := by
  simp only [fetch, ho, he]

/-- Settles O2: `step` runs what `fetch` takes. -/
theorem stepRunsThePresentedCommand : Obligations.StepRunsThePresentedCommand := by
  intro s cmd rest i ho he hd _
  rw [step, fetch_command ho he, hd]

theorem isSome_eq_decide_le {α : Type} {x : Option α} {n m : Nat} (h : x = none ↔ m + 1 ≤ n) :
    x.isSome = decide (n ≤ m) := by
  rw [Bool.eq_iff_iff, Option.isSome_iff_ne_none, ne_eq, h, decide_eq_true_iff]
  omega

/-- Settles O11: the domains from what an operand byte does not name, the members by listing them. -/
theorem tagsNumberTheMembers : Obligations.TagsNumberTheMembers := by
  refine ⟨fun x => ⟨?_, ?_, ?_, ?_⟩, fun s => ⟨source?_tag s, ?_⟩, ?_, ?_, ?_, ?_⟩
  · exact isSome_eq_decide_le source?_eq_none
  · exact isSome_eq_decide_le mixBus?_eq_none
  · exact isSome_eq_decide_le impMode?_eq_none
  · exact isSome_eq_decide_le clock?_eq_none
  · rw [← busTag_source]
    exact mixBus?_tag (.source s)
  all_goals decide

end Sys2Proof.Machine

/-! ## Nothing depends on STATUS and ERRSEEN (spec/10_state.md R34)

Two runs from states that differ in the two flags alone are followed side by side: until the command ends they differ
in the flags alone, and its end writes the same STATUS in both. -/

namespace Sys2Proof.Machine

/-- The states are the same but for STATUS and ERRSEEN. -/
def SameButFlags (s t : State) : Prop := ∃ st es, t = { s with status := st, errseen := es }

/-- The states are the same but for ERRSEEN. -/
def SameButErrseen (s t : State) : Prop := ∃ es, t = { s with errseen := es }

section

variable {s t : State}

theorem SameButErrseen.sameButFlags (h : SameButErrseen s t) : SameButFlags s t := by
  obtain ⟨es, rfl⟩ := h
  exact ⟨_, es, rfl⟩

theorem SameButErrseen.status (h : SameButErrseen s t) : t.status = s.status := by
  obtain ⟨es, rfl⟩ := h
  rfl

theorem SameButFlags.replies (h : SameButFlags s t) : t.replies = s.replies := by
  obtain ⟨st, es, rfl⟩ := h
  rfl

theorem SameButFlags.answerTo (h : SameButFlags s t) (r : ControlRequest) : answerTo r t = answerTo r s := by
  obtain ⟨st, es, rfl⟩ := h
  rfl

theorem SameButFlags.raise (h : SameButFlags s t) (e : Status) : SameButErrseen (raise e s) (raise e t) := by
  obtain ⟨st, es, rfl⟩ := h
  exact ⟨_, rfl⟩

theorem SameButFlags.finish (h : SameButFlags s t) (r : Result) : SameButErrseen (finish r s) (finish r t) := by
  obtain ⟨st, es, rfl⟩ := h
  exact ⟨es, rfl⟩

theorem SameButFlags.emit (h : SameButFlags s t) (r : ControlRequest) : SameButFlags (emit r s).2 (emit r t).2 := by
  obtain ⟨st, es, rfl⟩ := h
  exact ⟨st, es, rfl⟩

theorem SameButFlags.commit (h : SameButFlags s t) (op : SetOp) : SameButFlags (commit op s) (commit op t) := by
  obtain ⟨st, es, rfl⟩ := h
  exact ⟨st, es, by cases op <;> rfl⟩

theorem SameButFlags.settle {x y : Answer × State} (h : SameButFlags x.2 y.2) (ha : y.1 = x.1) :
    SameButErrseen (settle x) (settle y) := by
  rw [settle_eq, settle_eq, ha]
  split
  · exact h.raise _
  · exact h.finish _

theorem SameButFlags.runOps (h : SameButFlags s t) (ops : List SetOp) :
    SameButErrseen (runOps ops s) (runOps ops t) := by
  induction ops generalizing s t with
  | nil => exact h.finish _
  | cons op rest ih =>
    have h' := (h.commit op).emit (requestOf op)
    rw [runOps_cons, runOps_cons, h.answerTo]
    split
    · exact h'.raise _
    · exact ih h'

theorem SameButFlags.readBlock (h : SameButFlags s t) (r : ControlRequest) {k : List Byte → State → State}
    (hk : ∀ bytes u v, SameButFlags u v → SameButErrseen (k bytes u) (k bytes v)) :
    SameButErrseen (readBlock r s k) (readBlock r t k) := by
  rw [Machine.readBlock, Machine.readBlock, emit_answer, emit_answer, h.answerTo]
  split
  · exact (h.emit r).raise _
  · exact hk _ _ _ (h.emit r)

theorem SameButFlags.finishSnapshot (h : SameButFlags s t) (snap : Option (Vector Dword 32)) :
    SameButErrseen (finishSnapshot snap s) (finishSnapshot snap t) := by
  cases snap with
  | none => exact h.raise _
  | some v => exact h.finish _

theorem SameButFlags.pollMeters (h : SameButFlags s t) : SameButErrseen (pollMeters s) (pollMeters t) :=
  h.readBlock _ fun _ _ _ h => h.readBlock _ fun _ _ _ h => h.readBlock _ fun _ _ _ h => h.finishSnapshot _

end

/-- Two steps stop for the same reason, or go on in two states of which `R` holds. -/
inductive Alike (R : State → State → Prop) : StepOutcome → StepOutcome → Prop
  | next {t u : State} (h : R t u) : Alike R (.next t) (.next u)
  | fault (f : Fault) : Alike R (.fault f) (.fault f)
  | refused (r : Refusal) : Alike R (.refused r) (.refused r)

section

variable {R : State → State → Prop} {s t : State}

theorem Alike.require {α : Type} {x : Option α} {e : Status} {k k' : α → StepOutcome}
    (he : R (raise e s) (raise e t)) (hk : ∀ v, Alike R (k v) (k' v)) :
    Alike R (require x e s k) (require x e t k') := by
  cases x with
  | none => exact .next he
  | some v => exact hk v

theorem Alike.conduct {n : Nat} {done done' : State} (h : SameButFlags s t) (hd : R done done') :
    Alike R (conduct n s done) (conduct n t done') := by
  rw [Machine.conduct, Machine.conduct, h.replies]
  split
  · exact .fault _
  · exact .refused _
  · exact .next hd

theorem Alike.conductOps (h : SameButFlags s t) (ops : List SetOp) :
    Alike SameButErrseen (conductOps ops s) (conductOps ops t) := .conduct h (h.runOps ops)

theorem Alike.issue (h : SameButFlags s t) (allowed : Bool) (r : ControlRequest) :
    Alike SameButFlags (issue allowed r s) (issue allowed r t) := by
  cases allowed with
  | true => exact .conduct h (h.emit r)
  | false => exact .refused _

end

theorem Alike.mono {R R' : State → State → Prop} {o o' : StepOutcome} (h : Alike R o o')
    (hR : ∀ {t u}, R t u → R' t u) : Alike R' o o' := by
  cases h with
  | next h => exact .next (hR h)
  | fault f => exact .fault f
  | refused r => exact .refused r

/-- A command's checks and reads look at no flag, so the two runs take the same way. -/
theorem exec_command_alike {i : Instr} (hi : isCommand i = true) (s : State) (st es : Byte) :
    Alike SameButErrseen (exec i s) (exec i { s with status := st, errseen := es }) := by
  have h : SameButFlags s { s with status := st, errseen := es } := ⟨st, es, rfl⟩
  cases i
  case setimp | setmute | setatt | setsrc | setroute =>
    exact .require (h.raise _) fun _ => .require (h.raise _) fun _ => .conductOps h _
  case setclk => exact .require (h.raise _) fun _ => .conductOps h _
  case setgain =>
    exact .require (h.raise _) fun _ => .require (h.raise _) fun _ => .require (h.raise _) fun _ => .conductOps h _
  case save => exact .conduct h ((h.emit saveRequest).settle (h.answerTo _))
  case factory => exact .conductOps h factoryOps
  case zero => exact .conductOps h zeroOps
  case meterpoll => exact .conduct h h.pollMeters
  case cvtmeter => exact .next (h.finish _)
  case cvtatt | cvtgain | getMsrc | getRoute | getMute | getAtt | getClk =>
    exact .require (h.raise _) fun _ => .next (h.finish _)
  case getMgain | getImp =>
    exact .require (h.raise _) fun _ => .require (h.raise _) fun _ => .next (h.finish _)
  all_goals simp [isCommand, encode] at hi

/-- Which request a request kind issues does not depend on the state. -/
theorem exec_request_eq_issue {i : Instr} (hi : isCommand i = false) :
    ∃ r, ∀ s, exec i s = issue i.wellFormed r s := by
  cases i
  case wImp | wClk | wMute | wAtt | wSrc | wGain | wRoute | wSave | wMtrIn | wMtrDaw | wMtrMix =>
    exact ⟨_, fun _ => rfl⟩
  all_goals simp [isCommand, encode] at hi

/-- The two runs of an instruction, whichever it is. -/
theorem exec_alike (i : Instr) (s : State) (st es : Byte) :
    Alike (fun t u => SameButFlags t u ∧ (isCommand i = true → u.status = t.status))
      (exec i s) (exec i { s with status := st, errseen := es }) := by
  cases hi : isCommand i with
  | true => exact (exec_command_alike hi s st es).mono fun h => ⟨h.sameButFlags, fun _ => h.status⟩
  | false =>
    obtain ⟨r, hr⟩ := exec_request_eq_issue hi
    rw [hr, hr]
    exact (Alike.issue ⟨st, es, rfl⟩ _ r).mono fun h => ⟨h, nofun⟩

/-- Settles O57: by following the two runs side by side. -/
theorem nothingDependsOnStatus : Obligations.NothingDependsOnStatus := by
  intro i s st es
  have alike := exec_alike i s st es
  generalize exec i s = o, exec i { s with status := st, errseen := es } = o' at alike ⊢
  cases alike with
  | next h =>
    obtain ⟨⟨_, _, rfl⟩, status⟩ := h
    exact ⟨rfl, status⟩
  | fault | refused => rfl

end Sys2Proof.Machine

/-! ## What an instruction sends to the host, and what it hears (spec/20_memory.md R51, R55, R62)

Every instruction sends a program of requests, fixed before the first of them, and gives it up at the first
TransportError. `Follows` says this, and the lemmas below say it of each shared operation of Machine/Ops.lean. What a
step adds to the record of requests is then proved once, by induction along the program. -/

namespace Sys2Proof.Machine

/-- Between the two states nothing was sent and nothing heard. -/
structure SamePorts (s t : State) : Prop where
  trace : t.trace = s.trace
  replies : t.replies = s.replies

/-- `t` is where the block stands once it has sent this program of requests from `s`, or given it up at the first
TransportError. -/
inductive Follows : List ControlRequest → State → State → Prop
  | done {s t : State} (h : SamePorts s t) : Follows [] s t
  | failed {r : ControlRequest} {rest : List ControlRequest} {s t : State}
    (failure : (answerTo r s).isError = true) (sent : SamePorts (emit r s).2 t) : Follows (r :: rest) s t
  | next {r : ControlRequest} {rest : List ControlRequest} {s u t : State}
    (success : (answerTo r s).isError = false) (sent : SamePorts (emit r s).2 u) (later : Follows rest u t) :
    Follows (r :: rest) s t

/-- The program went out with the host answering all of it that was sent. -/
structure Sends (program : List ControlRequest) (s t : State) : Prop where
  answered : Answered program.length s
  follows : Follows program s t

section

variable {s t : State}

theorem SamePorts.settle (x : Answer × State) : SamePorts x.2 (settle x) := by
  rw [settle_eq]
  split <;> exact ⟨rfl, rfl⟩

theorem SamePorts.finishSnapshot (snap : Option (Vector Dword 32)) (s : State) :
    SamePorts s (finishSnapshot snap s) := by
  cases snap <;> exact ⟨rfl, rfl⟩

theorem SamePorts.emit_commit (op : SetOp) (r : ControlRequest) (s : State) :
    SamePorts (emit r s).2 (emit r (commit op s)).2 := by
  constructor <;> simp

/-! The programs of the shared operations. -/

theorem Follows.one {r : ControlRequest} (h : SamePorts (emit r s).2 t) : Follows [r] s t := by
  cases ha : (answerTo r s).isError with
  | true => exact .failed ha h
  | false => exact .next ha ⟨rfl, rfl⟩ (.done h)

theorem Follows.runOps (ops : List SetOp) (s : State) : Follows (ops.map requestOf) s (runOps ops s) := by
  induction ops generalizing s with
  | nil => exact .done ⟨rfl, rfl⟩
  | cons op rest ih =>
    have sent := SamePorts.emit_commit op (requestOf op) s
    rw [runOps_cons]
    split
    · exact .failed ‹_› ⟨sent.trace, sent.replies⟩
    · exact .next (Bool.eq_false_iff.mpr ‹_›) sent (ih _)

theorem Follows.readBlock {r : ControlRequest} {rest : List ControlRequest} {k : List Byte → State → State}
    (hk : ∀ bytes u, Follows rest u (k bytes u)) : Follows (r :: rest) s (readBlock r s k) := by
  rw [Machine.readBlock, emit_answer]
  split
  next ha => exact .failed (by rw [ha]; rfl) ⟨rfl, rfl⟩
  next ha => exact .next (by rw [ha]; rfl) ⟨rfl, rfl⟩ (hk _ _)

/-- The three reads of METERPOLL, in their order (spec/43_meter_decoder.md R192). -/
def meterProgram : List ControlRequest := [inputBlockRequest, dawBlockRequest, mixerBlockRequest]

theorem Follows.pollMeters (s : State) : Follows meterProgram s (pollMeters s) :=
  .readBlock fun _ _ => .readBlock fun _ _ => .readBlock fun _ _ => .done (.finishSnapshot _ _)

theorem Sends.nothing (h : SamePorts s t) : Sends [] s t := ⟨stopsWithin_zero _, .done h⟩

theorem Ensures.sends {program : List ControlRequest} {n : Nat} (hn : program.length = n)
    (h : Follows program s t) : Ensures (Sends program s) (Machine.conduct n s t) := by
  intro u hu
  obtain ⟨answered, rfl⟩ := conduct_next hu
  exact ⟨hn ▸ answered, h⟩

end

end Sys2Proof.Machine

/-! ## The address map (spec/20_memory.md R51, R52) -/

namespace Sys2Proof.Machine

theorem append_eq_ofNat {v w : Nat} (x : BitVec v) (y : BitVec w) :
    x ++ y = BitVec.ofNat (v + w) (x.toNat * 2 ^ w + y.toNat) := by
  apply BitVec.eq_of_toNat_eq
  have h : (x ++ y).toNat = x.toNat * 2 ^ w + y.toNat := by
    rw [BitVec.toNat_append, ← Nat.shiftLeft_add_eq_or_of_lt y.isLt, Nat.shiftLeft_eq]
  rw [BitVec.toNat_ofNat, ← h, Nat.mod_eq_of_lt (x ++ y).isLt]

theorem gainValue_eq_ofNat (i : BitVec 5) (b : BitVec 3) :
    0x01#8 ++ i ++ b = BitVec.ofNat 16 (0x0100 + 8 * i.toNat + b.toNat) := by
  apply BitVec.eq_of_toNat_eq
  rw [append_eq_ofNat, append_eq_ofNat]
  simp only [BitVec.toNat_ofNat]
  omega

/-! The codecs reach every payload that is well formed for a request kind. -/

theorem roundHalfAway_mul (w : Int) {den : Nat} (h : 0 < den) : roundHalfAway (w * den) den = w := by
  have quotient : (2 * (w.natAbs * den) + den) / (2 * den) = w.natAbs := by
    have twice : w.natAbs * (2 * den) = 2 * (w.natAbs * den) := by ring
    have next : (w.natAbs + 1) * (2 * den) = 2 * (w.natAbs * den) + 2 * den := by ring
    apply Nat.div_eq_of_lt_le <;> omega
  rw [roundHalfAway, Int.sign_mul, Int.natAbs_mul, Int.natAbs_natCast, quotient,
    Int.sign_eq_one_of_pos (Int.natCast_pos.mpr h), mul_one, Int.sign_mul_natAbs]

theorem dbUnit_pos : 0 < dbUnit := by
  rw [dbUnit]
  positivity

theorem dvd_dbUnit : 512 ∣ dbUnit := by
  rw [dbUnit, show 512 = 2 ^ 9 from rfl]
  exact pow_dvd_pow 2 (by decide)

/-- The words 0x8001 to 0xFFFF: `w` is the word of the attenuation (w - 65536.5) / 256, for which the rounded
argument of R102 is the integer `w` itself. -/
theorem exists_attenuationToWire_eq_ofNat {w : Nat} (lo : 0x8000 < w) (hi : w < 0x10000) :
    ∃ x, attenuationToWire x = (BitVec.ofNat 8 w, BitVec.ofNat 8 (w / 256)) := by
  obtain ⟨v, hu⟩ := dvd_dbUnit
  have pos : 0 < v := Nat.pos_of_mul_pos_left (hu ▸ dbUnit_pos)
  refine ⟨.finite ((2 * w - 131073) * v), ?_⟩
  have above : ¬ (2 * w - 131073) * (v : Int) ≤ -128 * (dbUnit : Int) := by
    rw [hu]
    push_cast
    nlinarith
  have below : ¬ 0 ≤ (2 * w - 131073) * (v : Int) := by nlinarith
  have round : roundHalfAway (131073 * (dbUnit : Int) + 512 * ((2 * w - 131073) * v)) (2 * dbUnit) = w := by
    rw [show 131073 * (dbUnit : Int) + 512 * ((2 * w - 131073) * v) = w * (2 * dbUnit : Nat) by
      rw [hu]; push_cast; ring]
    exact roundHalfAway_mul w (by omega)
  rw [attenuationToWire, if_neg above, if_neg below, round, ← BitVec.ofInt_natCast, ← BitVec.ofInt_natCast]
  rfl

theorem exists_attenuationToWire {p0 p1 : Byte} (h : attPayloadOk p0 p1 = true) :
    ∃ x, attenuationToWire x = (p0, p1) := by
  have h0 := p0.isLt
  have h1 := p1.isLt
  simp only [attPayloadOk, Bool.or_eq_true, decide_eq_true_iff, Bool.and_eq_true, beq_iff_eq] at h
  rcases h with h | ⟨rfl, rfl⟩
  · by_cases floor : p1.toNat * 256 + p0.toNat = 0x8000
    · obtain rfl : p1 = 0x80 := BitVec.eq_of_toNat_eq (show p1.toNat = 0x80 by omega)
      obtain rfl : p0 = 0x00 := BitVec.eq_of_toNat_eq (show p0.toNat = 0x00 by omega)
      exact ⟨.negInf, rfl⟩
    · obtain ⟨x, hx⟩ := exists_attenuationToWire_eq_ofNat (w := p1.toNat * 256 + p0.toNat) (by omega) (by omega)
      refine ⟨x, hx.trans (congrArg₂ Prod.mk (BitVec.eq_of_toNat_eq ?_) (BitVec.eq_of_toNat_eq ?_))⟩ <;>
      · rw [BitVec.toNat_ofNat]
        omega
  · exact ⟨.posInf, rfl⟩

theorem clampGain_of_mem {r : Int} (lo : -128 ≤ r) (hi : r ≤ 6) : clampGain r = r := by
  unfold clampGain
  split_ifs <;> omega

theorem exists_gainToWire {p0 p1 : Byte} (h : gainPayloadOk p0 p1 = true) : ∃ x, gainToWire x = (p0, p1) := by
  simp only [gainPayloadOk, Bool.and_eq_true, Bool.or_eq_true, decide_eq_true_iff, beq_iff_eq] at h
  obtain ⟨rfl, h⟩ := h
  have range : -128 ≤ p1.toInt ∧ p1.toInt ≤ 6 := by
    rw [BitVec.toInt_eq_toNat_cond]
    split_ifs <;> omega
  refine ⟨.finite (p1.toInt * dbUnit), ?_⟩
  rw [gainToWire, roundHalfAway_mul _ dbUnit_pos, clampGain_of_mem range.1 range.2, BitVec.ofInt_toInt]

/-- The request of a set command is in the address map, whatever its operands (R130-R144). -/
theorem requestOf_inAddressMap (op : SetOp) : InAddressMap (requestOf op) := by
  cases op with
  | imp c mode =>
    rw [requestOf, half, ← BitVec.ofNat_add]
    exact .impedance c mode
  | clk clock => exact .clockSource clock
  | mute k m =>
    rw [requestOf, half, ← BitVec.ofNat_add]
    cases m with
    | false => exact .unmute k
    | true => exact .mute k
  | att k d =>
    rw [requestOf, half, ← BitVec.ofNat_add]
    exact .attenuation k d.value
  | src i source =>
    rw [requestOf, half, ← BitVec.ofNat_add]
    exact .source i source
  | gain i b d =>
    have input : half i <<< 3 = half (8 * i) := by revert i; decide
    have bus : half b &&& 0x07#16 = half b := by revert b; decide
    rw [requestOf, input, bus, half, half, ← BitVec.ofNat_add, ← BitVec.ofNat_add, ← Nat.add_assoc]
    exact .gain i b d.value
  | route d bus => exact .router d bus

theorem meterProgram_inAddressMap : ∀ r ∈ meterProgram, InAddressMap r := by
  simp only [meterProgram, List.forall_mem_cons, List.not_mem_nil, false_imp_iff, implies_true, and_true]
  exact ⟨.inputMeters, .dawMeters, .mixerMeters⟩

/-- A well-formed request kind issues a request of the address map (spec/30_encoding.md R79). -/
theorem exec_request_inAddressMap {i : Instr} (hi : isCommand i = false) :
    ∃ r, (i.wellFormed = true → InAddressMap r) ∧ ∀ s, exec i s = issue i.wellFormed r s := by
  cases i
  case wImp c mode =>
    refine ⟨_, fun hw => ?_, fun _ => rfl⟩
    simp only [Instr.wellFormed, Bool.or_eq_true, beq_iff_eq] at hw
    rcases hw with rfl | rfl
    · exact .impedance 0 mode
    · exact .impedance 1 mode
  case wClk clock => exact ⟨_, fun _ => .clockSource clock, fun _ => rfl⟩
  case wMute k m =>
    refine ⟨_, fun hw => ?_, fun _ => rfl⟩
    simp only [Instr.wellFormed, Bool.and_eq_true, decide_eq_true_iff] at hw
    obtain ⟨hk, hm⟩ := hw
    rw [append_eq_ofNat]
    obtain hm | hm : m = 0 ∨ m = 1 := by bv_omega
    · rw [hm]
      exact .unmute ⟨k.toNat, by omega⟩
    · rw [hm]
      exact .mute ⟨k.toNat, by omega⟩
  case wAtt k p0 p1 =>
    refine ⟨_, fun hw => ?_, fun _ => rfl⟩
    simp only [Instr.wellFormed, Bool.and_eq_true, decide_eq_true_iff] at hw
    obtain ⟨hk, hp⟩ := hw
    obtain ⟨x, hx⟩ := exists_attenuationToWire hp
    have := InAddressMap.attenuation ⟨k.toNat, by omega⟩ x
    rw [hx] at this
    rwa [append_eq_ofNat]
  case wSrc i src =>
    refine ⟨_, fun hw => ?_, fun _ => rfl⟩
    rw [append_eq_ofNat]
    exact .source ⟨i.toNat, Nat.lt_succ_of_le (of_decide_eq_true hw)⟩ src
  case wGain i b p0 p1 =>
    refine ⟨_, fun hw => ?_, fun _ => rfl⟩
    simp only [Instr.wellFormed, Bool.and_eq_true, decide_eq_true_iff] at hw
    obtain ⟨⟨hi, hb⟩, hp⟩ := hw
    obtain ⟨x, hx⟩ := exists_gainToWire hp
    have := InAddressMap.gain ⟨i.toNat, by omega⟩ ⟨b.toNat, by omega⟩ x
    rw [hx] at this
    rwa [gainValue_eq_ofNat]
  case wRoute d bus =>
    refine ⟨_, fun hw => ?_, fun _ => rfl⟩
    rw [append_eq_ofNat, BitVec.toNat_zero, Nat.zero_mul, Nat.zero_add]
    exact .router ⟨d.toNat, Nat.lt_succ_of_le (of_decide_eq_true hw)⟩ bus
  case wSave => exact ⟨_, fun _ => .saveToHardware, fun _ => rfl⟩
  case wMtrIn => exact ⟨_, fun _ => .inputMeters, fun _ => rfl⟩
  case wMtrDaw => exact ⟨_, fun _ => .dawMeters, fun _ => rfl⟩
  case wMtrMix => exact ⟨_, fun _ => .mixerMeters, fun _ => rfl⟩
  all_goals simp [isCommand, encode] at hi

theorem isCommand_of_not_wellFormed {i : Instr} (h : i.wellFormed = false) : isCommand i = false := by
  cases i
  case wImp | wMute | wAtt | wSrc | wGain | wRoute => rfl
  all_goals cases h

/-- Settles O53: a command is always well formed, and a request kind checks that it is before it issues. -/
theorem requestOutsideTheMapIsRefused : Obligations.RequestOutsideTheMapIsRefused := by
  intro i s hw
  obtain ⟨r, hr⟩ := exec_request_shape i s (isCommand_of_not_wellFormed hw)
  rw [hr, hw]
  rfl

end Sys2Proof.Machine

/-! ## What a step adds to the record of requests (spec/20_memory.md R51, R55, R62, spec/60_exceptions.md R236) -/

namespace Sys2Proof.Machine

/-- Where a reply is listed to one of these exchanges, it is the answer of the exchange. -/
def AnswersListed (replies : List Reply) (new : List Exchange) : Prop :=
  ∀ (k : Nat) (r : Reply) (e : Exchange), replies[k]? = some r → new[k]? = some e → r = .answer e.answer

/-- Between the two states the block had these exchanges with the host, for the requests the program begins with. -/
structure Exchanged (program : List ControlRequest) (s t : State) (new : List Exchange) : Prop where
  trace : t.trace = s.trace ++ new
  replies : t.replies = s.replies.drop new.length
  requests : new.map Exchange.request <+: program
  answers : AnswersListed s.replies new

section

variable {s t u : State} {n : Nat} {program : List ControlRequest} {new : List Exchange}

theorem AnswersListed.nil (replies : List Reply) : AnswersListed replies [] := nofun

theorem AnswersListed.cons {replies : List Reply} {e : Exchange}
    (first : ∀ r, replies[0]? = some r → r = .answer e.answer) (later : AnswersListed replies.tail new) :
    AnswersListed replies (e :: new) := by
  intro k r e' hr he
  cases k with
  | zero =>
    obtain rfl : e = e' := by simpa using he
    exact first r hr
  | succ k => exact later k r e' (by rwa [List.getElem?_tail]) he

/-- A request that the host answers gets the reply that is listed first. -/
theorem answered_first (h : Answered (n + 1) s) (req : ControlRequest) (r : Reply) (hr : s.replies[0]? = some r) :
    r = .answer (answerTo req s) := by
  match hs : s.replies with
  | [] => simp [hs] at hr
  | .answer a :: rest =>
    rw [answerTo_listed req s a rest hs]
    simpa [hs, eq_comm] using hr
  | .silence :: _ | .reset :: _ => simp [Answered, hs] at h

/-- After a success the host answers the rest of the command's requests too. -/
theorem answered_later {req : ControlRequest} (h : Answered (n + 1) s) (success : (answerTo req s).isError = false)
    (hu : u.replies = s.replies.tail) : Answered n u := by
  rw [Answered, hu]
  match hs : s.replies with
  | [] => simp
  | .answer .transportError :: rest =>
    rw [answerTo_listed req s _ rest hs] at success
    cases success
  | .answer (.success _) :: _ => simpa [Answered, hs] using h
  | .silence :: _ | .reset :: _ => simp [Answered, hs] at h

theorem Sends.exchanged (h : Sends program s t) : ∃ new, Exchanged program s t new := by
  obtain ⟨answered, follows⟩ := h
  induction follows with
  | done h =>
    exact ⟨[], h.trace.trans (List.append_nil _).symm, h.replies, List.nil_prefix, .nil _⟩
  | @failed r rest s t _ sent =>
    refine ⟨[⟨r, answerTo r s⟩], sent.trace, ?_, ?_, .cons (answered_first answered r) (.nil _)⟩
    · rw [sent.replies, emit_replies, List.length_singleton, List.drop_one]
    · exact List.cons_prefix_cons.mpr ⟨rfl, List.nil_prefix⟩
  | @next r rest s u t success sent _ ih =>
    have hu : u.replies = s.replies.tail := sent.replies
    obtain ⟨new, trace, replies, requests, answers⟩ := ih (answered_later answered success hu)
    rw [hu] at replies answers
    refine ⟨⟨r, answerTo r s⟩ :: new, ?_, ?_, ?_, .cons (answered_first answered r) answers⟩
    · rw [trace, sent.trace, emit_trace, List.append_assoc, List.singleton_append]
    · rw [replies, List.length_cons, List.drop_tail]
    · exact List.cons_prefix_cons.mpr ⟨rfl, requests⟩

theorem Exchanged.length_le (h : Exchanged program s t new) : new.length ≤ program.length := by
  simpa using h.requests.length_le

theorem State.EmitsInMap.exchanged (hs : s.EmitsInMap) (h : Exchanged program s t new)
    (inMap : ∀ r ∈ program, InAddressMap r) : t.EmitsInMap where
  in_map e he := by
    rw [h.trace, List.mem_append] at he
    rcases he with he | he
    · exact hs.in_map e he
    · exact inMap _ (h.requests.subset (List.mem_map_of_mem he))

end

/-! Every instruction sends a program of requests of the address map. -/

theorem CommandShape.sends {s : State} {o : StepOutcome} (h : CommandShape s o) :
    ∃ program, (∀ r ∈ program, InAddressMap r) ∧ program.length ≤ 138 ∧ Ensures (Sends program s) o := by
  cases h with
  | error | answer => exact ⟨[], nofun, by decide, .next (.nothing ⟨rfl, rfl⟩)⟩
  | ops ops bounds =>
    have length : (ops.map requestOf).length = ops.length := List.length_map _
    refine ⟨ops.map requestOf, ?_, length.trans_le bounds.2, .sends length (.runOps ops s)⟩
    exact List.forall_mem_map.mpr fun op _ => requestOf_inAddressMap op
  | save =>
    exact ⟨[saveRequest], List.forall_mem_singleton.mpr .saveToHardware, by decide, .sends rfl (.one (.settle _))⟩
  | poll => exact ⟨meterProgram, meterProgram_inAddressMap, by decide, .sends rfl (.pollMeters s)⟩

theorem exec_sends (i : Instr) (s : State) :
    ∃ program, (∀ r ∈ program, InAddressMap r) ∧ program.length ≤ 138 ∧ Ensures (Sends program s) (exec i s) := by
  cases hi : isCommand i with
  | true => exact (exec_command_shape i s hi).sends
  | false =>
    obtain ⟨r, inMap, run⟩ := exec_request_inAddressMap hi
    rw [run]
    cases hw : i.wellFormed with
    | false => exact ⟨[], nofun, Nat.zero_le _, nofun⟩
    | true =>
      exact ⟨[r], List.forall_mem_singleton.mpr (inMap hw), Nat.le_add_left 1 137, .sends rfl (.one ⟨rfl, rfl⟩)⟩

/-- Settles O60: the exchanges a step adds are those of `Sends.exchanged`. -/
theorem recordedAnswersAreTheListedReplies : Obligations.RecordedAnswersAreTheListedReplies := by
  intro i s t new h hnew k _ r e hr he
  obtain ⟨program, -, -, sends⟩ := exec_sends i s
  obtain ⟨new', exchanged⟩ := (sends t h).exchanged
  obtain rfl : new' = new := List.append_cancel_left (exchanged.trace.symm.trans hnew)
  exact exchanged.answers k r e hr he

theorem State.EmitsInMap.exec {s : State} (h : s.EmitsInMap) (i : Instr) : Ensures State.EmitsInMap (exec i s) := by
  intro t ht
  obtain ⟨program, inMap, -, sends⟩ := exec_sends i s
  obtain ⟨new, exchanged⟩ := (sends t ht).exchanged
  exact h.exchanged exchanged inMap

/-- Taking a word empties the request port and sends nothing. -/
theorem fetch_order_trace (s : State) : (fetch s).2.order = none ∧ (fetch s).2.trace = s.trace := by
  unfold fetch
  split
  · exact ⟨rfl, rfl⟩
  all_goals exact ⟨‹s.order = none›, rfl⟩

theorem State.EmitsInMap.step {s : State} (h : s.EmitsInMap) :
    Ensures (fun t => t.EmitsInMap ∧ t.order = none) (step s) := by
  obtain ⟨order, trace⟩ := fetch_order_trace s
  have inMap : (fetch s).2.EmitsInMap := ⟨trace ▸ h.in_map⟩
  have run (i : Instr) : Ensures (fun t => t.EmitsInMap ∧ t.order = none) (Machine.exec i (fetch s).2) := fun t ht =>
    ⟨inMap.exec i t ht, (exec_ports i _ t ht).2.trans order⟩
  unfold Machine.step
  split <;> rename_i hf <;> rw [hf] at inMap order run
  · exact .next ⟨inMap, order⟩
  · exact .next ⟨⟨inMap.in_map⟩, order⟩
  · exact run _
  · exact .next ⟨⟨inMap.in_map⟩, order⟩
  · exact run _
  · nofun

/-- Settles O55: taking a word sends nothing, and an instruction sends requests of the address map alone. -/
theorem everyStepEmitsInTheAddressMap : Obligations.EveryStepEmitsInTheAddressMap := fun _ t h => h.step t

end Sys2Proof.Machine

/-! ## How many requests each command sends (spec/20_memory.md R62, spec/41_topology_encoder.md R151) -/

namespace Sys2Proof.Machine

section

variable {s t : State}

/-- The command ended with one of the codes 1 to 4, which its checks raise (spec/60_exceptions.md R212-R215). -/
def CheckFailed (t : State) : Prop := 1 ≤ t.status.toNat ∧ t.status.toNat ≤ 4

theorem not_checkFailed {e : Status} (h : t.status = statusByte e) (he : statusCode e = 0 ∨ 4 < statusCode e) :
    ¬ CheckFailed t := by
  rw [CheckFailed, h, statusByte_toNat]
  omega

theorem not_checkFailed_settle (x : Answer × State) : ¬ CheckFailed (settle x) := by
  rw [settle_eq]
  split
  · exact not_checkFailed (raise_status ..) (by decide)
  · exact not_checkFailed (finish_status ..) (by decide)

theorem not_checkFailed_runOps (ops : List SetOp) (s : State) : ¬ CheckFailed (runOps ops s) := by
  obtain ⟨-, -, -, ⟨status, -⟩ | ⟨status, -⟩⟩ := runOps_frame ops s <;>
  exact not_checkFailed status (by decide)

theorem not_checkFailed_pollMeters (s : State) : ¬ CheckFailed (pollMeters s) := by
  obtain ⟨t, -, h | h | ⟨v, h⟩⟩ := pollMeters_cases s <;> rw [h]
  · exact not_checkFailed (raise_status ..) (by decide)
  · exact not_checkFailed (raise_status ..) (by decide)
  · exact not_checkFailed (finish_status ..) (by decide)

/-- A failed check ends a command before its first request. -/
theorem CommandShape.samePorts_of_checkFailed {o : StepOutcome} (h : CommandShape s o) :
    Ensures (fun t => CheckFailed t → SamePorts s t) o := by
  cases h with
  | error | answer => exact .next fun _ => ⟨rfl, rfl⟩
  | ops ops => exact .conduct fun failed => absurd failed (not_checkFailed_runOps ops s)
  | save => exact .conduct fun failed => absurd failed (not_checkFailed_settle _)
  | poll => exact .conduct fun failed => absurd failed (not_checkFailed_pollMeters s)

/-- If the command ended with OK or TRANSPORT_ERR, the codes that passed checks leave, it sent one request. -/
def OneRequestIfPassed (s t : State) : Prop :=
  t.status = 0 ∨ t.status = 6 → t.trace.length = s.trace.length + 1

theorem OneRequestIfPassed.settle (r : ControlRequest) (h : t.trace = s.trace) :
    OneRequestIfPassed s (settle (emit r t)) := fun _ => by
  rw [(SamePorts.settle _).trace, emit_trace, h, List.length_append, List.length_singleton]

end

/-- The commands that send one request: the set commands and SAVE. -/
theorem exec_oneRequestIfPassed {i : Instr} (a b : Byte) (d : Dword)
    (hi : i ∈ [.setimp a b, .setclk b, .setmute a b, .setatt a d, .setsrc a b, .setgain a b d, .setroute a b, .save])
    (s : State) : Ensures (OneRequestIfPassed s) (exec i s) := by
  have range : OneRequestIfPassed s (raise .rangeErr s) := by
    rw [OneRequestIfPassed, raise_status]
    exact fun h => absurd h (by decide)
  have nan : OneRequestIfPassed s (raise .nanErr s) := by
    rw [OneRequestIfPassed, raise_status]
    exact fun h => absurd h (by decide)
  have runOne (op : SetOp) : Ensures (OneRequestIfPassed s) (conductOps [op] s) := by
    refine .conduct ?_
    rw [runOps_one]
    exact .settle _ (commit_trace op s)
  cases i
  case setimp | setmute | setsrc | setroute => exact .require range fun _ _ => .require range fun _ _ => runOne _
  case setclk => exact .require range fun _ _ => runOne _
  case setatt => exact .require range fun _ _ => .require nan fun _ _ => runOne _
  case setgain =>
    exact .require range fun _ _ => .require range fun _ _ => .require nan fun _ _ => runOne _
  case save => exact .conduct (.settle _ rfl)
  all_goals simp at hi

/-- GET and the codec commands check their operands and answer. -/
theorem exec_samePorts {i : Instr} (a b : Byte) (d : Dword)
    (hi : i ∈ [.getMsrc a, .getMgain a b, .getRoute a, .getMute a, .getAtt a, .getImp a, .getClk, .cvtatt d,
      .cvtgain d, .cvtmeter a b]) (s : State) : Ensures (SamePorts s) (exec i s) := by
  have failed (e : Status) : SamePorts s (raise e s) := ⟨rfl, rfl⟩
  have answer (r : Result) : Ensures (SamePorts s) (.next (finish r s)) := .next ⟨rfl, rfl⟩
  cases i
  case getMsrc | getRoute | getMute | getAtt | getClk | cvtatt | cvtgain =>
    exact .require (failed _) fun _ _ => answer _
  case getMgain | getImp => exact .require (failed _) fun _ _ => .require (failed _) fun _ _ => answer _
  case cvtmeter => exact answer _
  all_goals simp at hi

/-- Settles O58: the record by the program that the instruction sends, the counts by the shape of each command. -/
theorem requestsEmittedByEachCommand : Obligations.RequestsEmittedByEachCommand := by
  intro i s t h
  refine ⟨?_, fun a b d hi => exec_oneRequestIfPassed a b d hi s t h, fun hi lo hi' => ?_, fun a b d hi => ?_⟩
  · obtain ⟨program, -, bound, sends⟩ := exec_sends i s
    obtain ⟨new, exchanged⟩ := (sends t h).exchanged
    exact ⟨new, exchanged.trace, exchanged.replies, exchanged.length_le.trans bound⟩
  · have same := (exec_command_shape i s hi).samePorts_of_checkFailed t h ⟨lo, hi'⟩
    exact ⟨same.trace, same.replies⟩
  · have same := exec_samePorts a b d hi s t h
    exact ⟨same.trace, same.replies⟩

end Sys2Proof.Machine

/-! ## The command word and its rows (spec/30_encoding.md R71-R77)

A command decodes to an instruction exactly when it is that instruction's encoding, up to a data word that its opcode
does not take: `decodeCommand_eq_ok_iff`. So the decoder is compared with the rows on the words of instructions: a word
under the mask of a row is the word of the row's instruction, with the operands that the mask leaves open. -/

namespace Sys2Proof

section

variable {op sel : BitVec 4} {a b : Byte} {c m r : Word} {d e : Dword} {i : Instr}

/-! The fields: they are the whole of a word with `Z = 0`, and a mask acts on each by itself. -/

theorem commandWord_fields (hz : zOf c = 0) : commandWord (opOf c) (selOf c) (aOf c) (bOf c) = c := by
  have unused (k : Nat) (hk : k < 8) : c.getLsbD k = false := by
    simpa [zOf, hk] using congrArg (BitVec.getLsbD · k) hz
  ext k hk
  simp only [commandWord, opOf, selOf, aOf, bOf]
  grind

theorem opOf_and : opOf (c &&& m) = opOf c &&& opOf m := BitVec.extractLsb'_and
theorem selOf_and : selOf (c &&& m) = selOf c &&& selOf m := BitVec.extractLsb'_and
theorem aOf_and : aOf (c &&& m) = aOf c &&& aOf m := BitVec.extractLsb'_and
theorem bOf_and : bOf (c &&& m) = bOf c &&& bOf m := BitVec.extractLsb'_and
theorem zOf_and : zOf (c &&& m) = zOf c &&& zOf m := BitVec.extractLsb'_and

/-! The decoder. -/

theorem onlyIf_eq_ok {unusedZero : Bool} {j : Instr} : onlyIf unusedZero i = .ok j ↔ unusedZero = true ∧ i = j := by
  cases unusedZero <;> simp [onlyIf]

theorem decodeCommand_get : decodeCommand ⟨commandWord 0xF sel a b, d⟩ = decodeGet sel a b := by
  simp [decodeCommand]

theorem decodeCommand_op (h0 : op ≠ 0x0) (hF : op ≠ 0xF) :
    decodeCommand ⟨commandWord op 0 a b, d⟩ = decodeOp op a b d := by
  simp only [decodeCommand, opOf_commandWord, selOf_commandWord, aOf_commandWord, bOf_commandWord, zOf_commandWord,
    if_neg h0, if_neg hF, ne_eq, not_true_eq_false, if_false]

/-- All a command that decodes can be: a GET, or a word of another opcode with `S` zero. -/
theorem decodeCommand_cases (h : decodeCommand ⟨c, d⟩ = .ok i) :
    (∃ sel a b, c = commandWord 0xF sel a b ∧ decodeGet sel a b = .ok i) ∨
      ∃ op a b, c = commandWord op 0 a b ∧ decodeOp op a b d = .ok i := by
  unfold decodeCommand at h
  dsimp only at h
  split_ifs at h with h0 hz hF hs
  all_goals have hc := (commandWord_fields (not_not.mp hz)).symm
  · exact .inl ⟨_, _, _, hF ▸ hc, h⟩
  · exact .inr ⟨_, _, _, not_not.mp hs ▸ hc, h⟩

theorem eq_ofNat_of_toNat_eq {w n : Nat} {x : BitVec w} (h : x.toNat = n) : x = BitVec.ofNat w n := by
  rw [← h, BitVec.ofNat_toNat, BitVec.setWidth_eq]

theorem encode_of_decodeGet (h : decodeGet sel a b = .ok i) : encode i = .command ⟨commandWord 0xF sel a b, 0⟩ := by
  unfold decodeGet at h
  split at h
  case h_8 => cases h
  all_goals
    simp only [onlyIf_eq_ok, Bool.and_eq_true, beq_iff_eq, Except.ok.injEq] at h
    rename_i hs
    rw [eq_ofNat_of_toNat_eq hs]
  case h_2 => -- MGAIN uses both operands
    subst h
    rfl
  case h_7 => -- CLK uses neither
    obtain ⟨⟨rfl, rfl⟩, rfl⟩ := h
    rfl
  all_goals -- the others use A only
    obtain ⟨rfl, rfl⟩ := h
    rfl

theorem encode_of_decodeOp (h : decodeOp op a b d = .ok i) :
    encode i = .command ⟨commandWord op 0 a b, if takesData op then d else 0⟩ := by
  unfold decodeOp at h
  split at h
  case h_15 => cases h
  all_goals
    simp only [onlyIf_eq_ok, Bool.and_eq_true, beq_iff_eq, Except.ok.injEq] at h
    rename_i ho
    rw [eq_ofNat_of_toNat_eq ho]
  case h_2 | h_4 => -- SETCLK and SETATT use one operand
    obtain ⟨rfl, rfl⟩ := h
    rfl
  case h_8 | h_9 | h_10 | h_11 | h_12 | h_13 => -- SAVE to CVTGAIN use neither
    obtain ⟨⟨rfl, rfl⟩, rfl⟩ := h
    rfl
  all_goals -- the others use both
    subst h
    rfl

/-- A command that decodes is the encoding of what it decodes to, but for a data word its opcode does not take. -/
theorem encode_of_decodeCommand (h : decodeCommand ⟨c, d⟩ = .ok i) :
    encode i = .command ⟨c, if takesData (opOf c) then d else 0⟩ := by
  rcases decodeCommand_cases h with ⟨sel, a, b, rfl, hg⟩ | ⟨op, a, b, rfl, ho⟩
  · rw [encode_of_decodeGet hg, opOf_commandWord]
    rfl
  · rw [encode_of_decodeOp ho, opOf_commandWord]

theorem takesData_iff : takesData op = true ↔ op ∈ [0x4#4, 0x6#4, 0xC#4, 0xD#4] := by
  simp [takesData, or_assoc]

theorem decodeOp_data (h : takesData op = false) : decodeOp op a b d = decodeOp op a b e := by
  unfold decodeOp
  split
  case h_4 | h_6 | h_12 | h_13 =>
    rename_i ho
    rw [eq_ofNat_of_toNat_eq ho] at h
    cases h
  all_goals rfl

/-- A data word that the opcode does not take makes no difference (R72). -/
theorem decodeCommand_data (h : takesData (opOf c) = false) : decodeCommand ⟨c, d⟩ = decodeCommand ⟨c, e⟩ := by
  simp only [decodeCommand, decodeOp_data (d := d) (e := e) h]

/-- A command's words decode to it. -/
theorem decodeCommand_encode {cmd : Command} (h : encode i = .command cmd) : decodeCommand cmd = .ok i := by
  cases i
  case getMsrc | getMgain | getRoute | getMute | getAtt | getImp | getClk =>
    obtain rfl := PortWord.command.inj h
    exact decodeCommand_get
  case wImp | wClk | wMute | wAtt | wSrc | wGain | wRoute | wSave | wMtrIn | wMtrDaw | wMtrMix => cases h
  all_goals
    obtain rfl := PortWord.command.inj h
    exact decodeCommand_op (by decide) (by decide)

/-- The commands that decode to an instruction are its encoding, the data word left open where the opcode takes none. -/
theorem decodeCommand_eq_ok_iff :
    decodeCommand ⟨c, d⟩ = .ok i ↔ encode i = .command ⟨c, if takesData (opOf c) then d else 0⟩ := by
  refine ⟨encode_of_decodeCommand, fun h => ?_⟩
  rw [← decodeCommand_encode h]
  cases ht : takesData (opOf c) with
  | true => rfl
  | false => exact decodeCommand_data ht

/-! The rows. Every mask takes in OP, S and Z, and of A and B those that the row's opcode does not use. -/

theorem eq_commandWord_of_mask (h : c &&& m = r) (hop : opOf m = 15#4) (hsel : selOf m = 15#4) (hz : zOf m = 255#8)
    (hr : zOf r = 0) : c = commandWord (opOf r) (selOf r) (aOf c) (bOf c) := by
  have op : opOf r = opOf c := by rw [← h, opOf_and, hop, and_f]
  have sel : selOf r = selOf c := by rw [← h, selOf_and, hsel, and_f]
  have z : zOf r = zOf c := by rw [← h, zOf_and, hz, and_ff]
  rw [op, sel, commandWord_fields (z.symm.trans hr)]

theorem aOf_eq_of_mask (h : c &&& m = r) (ha : aOf m = 255#8) : aOf c = aOf r := by
  rw [← h, aOf_and, ha, and_ff]

theorem bOf_eq_of_mask (h : c &&& m = r) (hb : bOf m = 255#8) : bOf c = bOf r := by
  rw [← h, bOf_and, hb, and_ff]

/-- The word decodes to an instruction of this row. -/
def DecodesToRow (c : Word) (d : Dword) (row : Word × Word) : Prop :=
  ∃ i, decodeCommand ⟨c, d⟩ = .ok i ∧ i.row = row

theorem DecodesToRow.of_encode {row : Word × Word} (hc : c = commandWord op sel a b)
    (he : encode i = .command ⟨commandWord op sel a b, if takesData op then d else 0⟩) (hrow : i.row = row) :
    DecodesToRow c d row := by
  subst hc
  exact ⟨i, decodeCommand_eq_ok_iff.mpr (by rw [he, opOf_commandWord]), hrow⟩

/-- A row whose instruction `f` uses A and B. -/
theorem DecodesToRow.of_ab (f : Byte → Byte → Instr) (h : c &&& 0xFF0000FF = r) (hr : zOf r = 0 := by rfl)
    (he : ∀ a b, encode (f a b) =
      .command ⟨commandWord (opOf r) (selOf r) a b, if takesData (opOf r) then d else 0⟩ := by intros; rfl)
    (hrow : ∀ a b, (f a b).row = (0xFF0000FF, r) := by intros; rfl) : DecodesToRow c d (0xFF0000FF, r) :=
  .of_encode (eq_commandWord_of_mask h rfl rfl rfl hr) (he _ _) (hrow _ _)

/-- A row whose instruction `f` uses A only. -/
theorem DecodesToRow.of_a (f : Byte → Instr) (h : c &&& 0xFF00FFFF = r) (hr : zOf r = 0 := by rfl)
    (he : ∀ a, encode (f a) =
      .command ⟨commandWord (opOf r) (selOf r) a (bOf r), if takesData (opOf r) then d else 0⟩ := by intros; rfl)
    (hrow : ∀ a, (f a).row = (0xFF00FFFF, r) := by intros; rfl) : DecodesToRow c d (0xFF00FFFF, r) :=
  .of_encode (bOf_eq_of_mask h rfl ▸ eq_commandWord_of_mask h rfl rfl rfl hr) (he _) (hrow _)

/-- A row whose instruction `f` uses B only. -/
theorem DecodesToRow.of_b (f : Byte → Instr) (h : c &&& 0xFFFF00FF = r) (hr : zOf r = 0 := by rfl)
    (he : ∀ b, encode (f b) =
      .command ⟨commandWord (opOf r) (selOf r) (aOf r) b, if takesData (opOf r) then d else 0⟩ := by intros; rfl)
    (hrow : ∀ b, (f b).row = (0xFFFF00FF, r) := by intros; rfl) : DecodesToRow c d (0xFFFF00FF, r) :=
  .of_encode (aOf_eq_of_mask h rfl ▸ eq_commandWord_of_mask h rfl rfl rfl hr) (he _) (hrow _)

/-- A row whose instruction uses neither. -/
theorem DecodesToRow.of_none (i : Instr) (h : c &&& 0xFFFFFFFF = r) (hr : zOf r = 0 := by rfl)
    (he : encode i = .command ⟨commandWord (opOf r) (selOf r) (aOf r) (bOf r),
      if takesData (opOf r) then d else 0⟩ := by rfl)
    (hrow : i.row = (0xFFFFFFFF, r) := by rfl) : DecodesToRow c d (0xFFFFFFFF, r) :=
  .of_encode ((BitVec.and_allOnes.symm.trans h).trans (commandWord_fields hr).symm) he hrow

/-- Every word of a row of the table decodes to an instruction of that row (R75, R77). -/
theorem decodesToRow {row : Word × Word} (hrow : row ∈ Machine.commandRows) (h : c &&& row.1 = row.2) :
    DecodesToRow c d row := by
  fin_cases hrow
  exacts [.of_ab .setimp h, .of_b .setclk h, .of_ab .setmute h, .of_a (.setatt · d) h, .of_ab .setsrc h,
    .of_ab (.setgain · · d) h, .of_ab .setroute h, .of_none .save h, .of_none .factory h, .of_none .zero h,
    .of_none .meterpoll h, .of_none (.cvtatt d) h, .of_none (.cvtgain d) h, .of_ab .cvtmeter h, .of_a .getMsrc h,
    .of_ab .getMgain h, .of_a .getRoute h, .of_a .getMute h, .of_a .getAtt h, .of_a .getImp h, .of_none .getClk h]

/-- An instruction's code word is one of its row. -/
theorem tableRow (i : Instr) : Laws.TableRow.Statement i := by
  cases i
  open Laws.TableRow in
  exacts [setimp .., setclk _, setmute .., setatt .., setsrc .., setgain .., setroute .., save, factory, zero, meterpoll,
    cvtatt _, cvtgain _, cvtmeter .., getMsrc _, getMgain .., getRoute _, getMute _, getAtt _, getImp _, getClk,
    wImp .., wClk _, wMute .., wAtt .., wSrc .., wGain .., wRoute .., wSave, wMtrIn, wMtrDaw, wMtrMix]

theorem row_mem_commandRows (h : encode i = .command ⟨c, d⟩) : i.row ∈ Machine.commandRows := by
  cases i
  case wImp | wClk | wMute | wAtt | wSrc | wGain | wRoute | wSave | wMtrIn | wMtrDaw | wMtrMix => cases h
  all_goals simp [Machine.commandRows, Instr.row]

theorem codeWord_of_encode (h : encode i = .command ⟨c, d⟩) : i.codeWord = c := by
  rw [Instr.codeWord, h]

end

end Sys2Proof

namespace Sys2Proof.Machine

/-- Settles O6: by the encoding of what a word decodes to, and by the rows one by one. -/
theorem commandDecodesExactlyByItsRow : Obligations.CommandDecodesExactlyByItsRow := by
  refine fun c d => ⟨fun i h => ?_, fun row hrow h => decodesToRow hrow h⟩
  have he := encode_of_decodeCommand h
  refine ⟨row_mem_commandRows he, ?_⟩
  rw [← codeWord_of_encode he]
  exact tableRow i

/-- Settles O8: the forward half of `decodeCommand_eq_ok_iff`. -/
theorem encodeOfDecodedCommandIsTheCommand : Obligations.EncodeOfDecodedCommandIsTheCommand := fun _ _ _ =>
  encode_of_decodeCommand

/-- Settles O9: equal instructions have equal encodings, and these hold the data word where the opcode takes one. -/
theorem dataWordIsReadByFourOpcodes : Obligations.DataWordIsReadByFourOpcodes := by
  intro c d e
  rw [← takesData_iff]
  refine ⟨fun h => ?_, fun h => ⟨if_pos h, fun i j hi hj hne hij => hne ?_⟩⟩
  · exact ⟨if_neg h, decodeCommand_data (Bool.eq_false_iff.mpr h)⟩
  · have hd := encode_of_decodeCommand hi
    have he := encode_of_decodeCommand hj
    rw [hij, he, h] at hd
    exact (Command.mk.inj (PortWord.command.inj hd)).2.symm

end Sys2Proof.Machine

/-! ## Requests and their kinds (spec/30_encoding.md R79, R80) -/

namespace Sys2Proof

/-! The kind of a request of each row of R79, by its `index` and `value`. -/

theorem kindOfOut_imp (c : Byte) : kindOfOut (0x09#8 ++ c) 0x0100 = some (.imp (c - 1)) := by simp [kindOfOut]
theorem kindOfOut_clk : kindOfOut 0x0100 0x2800 = some .clk := rfl
theorem kindOfOut_mute (k : Byte) : kindOfOut (0x01#8 ++ k) 0x0a00 = some (.mute k) := by simp [kindOfOut]
theorem kindOfOut_att (k : Byte) : kindOfOut (0x02#8 ++ k) 0x0a00 = some (.att k) := by simp [kindOfOut]
theorem kindOfOut_src (i : Byte) : kindOfOut (0x06#8 ++ i) 0x3200 = some (.src i) := by simp [kindOfOut]
theorem kindOfOut_gain (i : BitVec 5) (b : BitVec 3) : kindOfOut (0x01#8 ++ i ++ b) 0x3c00 = some (.gain i b) := by
  simp [kindOfOut]
theorem kindOfOut_route (d : Byte) : kindOfOut (0x00#8 ++ d) 0x3300 = some (.route d) := by simp [kindOfOut]
theorem kindOfOut_save : kindOfOut 0x005a 0x3c00 = some .save := rfl
theorem kindOfIn_mtrIn : kindOfIn 0x0000 0x3c00 = some .mtrIn := rfl
theorem kindOfIn_mtrDaw : kindOfIn 0x0003 0x3c00 = some .mtrDaw := rfl
theorem kindOfIn_mtrMix : kindOfIn 0x0001 0x3c00 = some .mtrMix := rfl

theorem withPayload_imp (c : Byte) (mode : ImpMode) :
    withPayload (.imp (c - 1)) [.impCode mode, .byte 0] = some (.wImp c mode) := by
  simp [withPayload, impPayload]

theorem decodeOrder_out {value index : Half} {payload : List PayloadByte} {kind : RequestKind} {i : Instr}
    (hk : kindOfOut value index = some kind) (hp : withPayload kind payload = some i) :
    decodeOrder (.out value index payload) = .ok i := by
  simp [decodeOrder, hk, hp, orNoRequest]

theorem decodeOrder_encode {i : Instr} {o : RequestOrder} (h : encode i = .order o) : decodeOrder o = .ok i := by
  cases i
  case wImp c mode =>
    cases h
    exact decodeOrder_out (kindOfOut_imp c) (withPayload_imp c mode)
  case wMute k _ =>
    cases h
    exact decodeOrder_out (kindOfOut_mute k) rfl
  case wAtt k _ _ =>
    cases h
    exact decodeOrder_out (kindOfOut_att k) rfl
  case wSrc i _ =>
    cases h
    exact decodeOrder_out (kindOfOut_src i) rfl
  case wGain i b _ _ =>
    cases h
    exact decodeOrder_out (kindOfOut_gain i b) rfl
  case wRoute d _ =>
    cases h
    exact decodeOrder_out (kindOfOut_route d) rfl
  case wClk | wSave | wMtrIn | wMtrDaw | wMtrMix =>
    cases h
    rfl
  all_goals cases h

theorem decode_encode (i : Instr) : decode (encode i) = .ok i := by
  cases h : encode i with
  | command cmd => exact decodeCommand_encode h
  | order o => exact decodeOrder_encode h

end Sys2Proof

namespace Sys2Proof.Machine

/-- Settles O7: `decode_encode`, which does not need the instruction to be well formed. -/
theorem decodeOfEncodeIsTheInstruction : Obligations.DecodeOfEncodeIsTheInstruction := fun i _ => decode_encode i

/-- Settles O10: the decoder evaluated on the seven words. -/
theorem exampleWordsDecode : Obligations.ExampleWordsDecode := by
  unfold Obligations.ExampleWordsDecode
  decide

theorem fetch_order {s : State} {o : RequestOrder} (ho : s.order = some o) :
    fetch s = (.order (decode (.order o)), { s with order := none }) := by
  simp only [fetch, ho]

/-- Settles O3: `step` runs what `fetch` takes. -/
theorem stepRunsTheRequestOrder : Obligations.StepRunsTheRequestOrder := by
  intro s o i ho hd _
  rw [step, fetch_order ho, hd]

/-! ## The wire decode (spec/30_encoding.md R80) -/

section

variable {value index : Half} {kind : RequestKind} {r : ControlRequest}

theorem exists_low_byte {hi : Byte} (h : value.extractLsb' 8 8 = hi) : ∃ lo : Byte, value = hi ++ lo :=
  ⟨_, (h ▸ value_eq value).symm⟩

theorem exists_gain_fields {hi : Byte} (h : value.extractLsb' 8 8 = hi) :
    ∃ (i : BitVec 5) (b : BitVec 3), value = hi ++ i ++ b :=
  ⟨_, _, (h ▸ gainValue_eq value).symm⟩

/-- The impedance kind by the byte on the wire, which is the channel + 1. -/
theorem OfKind.imp_of_byte (c : Byte) (payload : List Byte) :
    OfKind (.out Config.setRequestCode (0x09#8 ++ c) 0x0100 payload) (.imp (c - 1)) := by
  have := OfKind.imp (c - 1) payload
  rwa [BitVec.sub_add_cancel] at this

/-- An OUT request of the kind that its `index` and `value` name is of that kind's row. -/
theorem OfKind.of_kindOfOut (h : kindOfOut value index = some kind) (payload : List Byte) :
    OfKind (.out (requestCode kind) value index payload) kind := by
  unfold kindOfOut at h
  dsimp only at h
  split_ifs at h with himp hclk hmute hatt hsrc hgain hroute hsave
  all_goals obtain rfl := Option.some.inj h
  · obtain ⟨rfl, hv⟩ := himp
    obtain ⟨lo, rfl⟩ := exists_low_byte hv
    rw [value_lo]
    exact .imp_of_byte lo payload
  · obtain ⟨rfl, rfl⟩ := hclk
    exact .clk payload
  · obtain ⟨rfl, hv⟩ := hmute
    obtain ⟨lo, rfl⟩ := exists_low_byte hv
    rw [value_lo]
    exact .mute lo payload
  · obtain ⟨rfl, hv⟩ := hatt
    obtain ⟨lo, rfl⟩ := exists_low_byte hv
    rw [value_lo]
    exact .att lo payload
  · obtain ⟨rfl, hv⟩ := hsrc
    obtain ⟨lo, rfl⟩ := exists_low_byte hv
    rw [value_lo]
    exact .src lo payload
  · obtain ⟨rfl, hv⟩ := hgain
    obtain ⟨i, b, rfl⟩ := exists_gain_fields hv
    rw [gainValue_input, gainValue_bus]
    exact .gain i b payload
  · obtain ⟨rfl, hv⟩ := hroute
    obtain ⟨lo, rfl⟩ := exists_low_byte hv
    rw [value_lo]
    exact .route lo payload
  · obtain ⟨rfl, rfl⟩ := hsave
    exact .save payload

theorem OfKind.of_kindOfIn (h : kindOfIn value index = some kind) (n : Half) :
    OfKind (.inp (requestCode kind) value index n) kind := by
  unfold kindOfIn at h
  split_ifs at h with hin hdaw hmix
  all_goals obtain rfl := Option.some.inj h
  · obtain ⟨rfl, rfl⟩ := hin
    exact .mtrIn n
  · obtain ⟨rfl, rfl⟩ := hdaw
    exact .mtrDaw n
  · obtain ⟨rfl, rfl⟩ := hmix
    exact .mtrMix n

/-- A request of a row of R79 is found to be of that row's kind. -/
theorem OfKind.wireDecode (h : OfKind r kind) : wireDecode r = some kind := by
  cases h with
  | imp c payload => exact wireDecode_out.mpr ⟨by rw [kindOfOut_imp, BitVec.add_sub_cancel], rfl⟩
  | clk payload => exact wireDecode_out.mpr ⟨kindOfOut_clk, rfl⟩
  | mute k payload => exact wireDecode_out.mpr ⟨kindOfOut_mute k, rfl⟩
  | att k payload => exact wireDecode_out.mpr ⟨kindOfOut_att k, rfl⟩
  | src i payload => exact wireDecode_out.mpr ⟨kindOfOut_src i, rfl⟩
  | gain i b payload => exact wireDecode_out.mpr ⟨kindOfOut_gain i b, rfl⟩
  | route d payload => exact wireDecode_out.mpr ⟨kindOfOut_route d, rfl⟩
  | save payload => exact wireDecode_out.mpr ⟨kindOfOut_save, rfl⟩
  | mtrIn n => exact wireDecode_inp.mpr ⟨kindOfIn_mtrIn, rfl⟩
  | mtrDaw n => exact wireDecode_inp.mpr ⟨kindOfIn_mtrDaw, rfl⟩
  | mtrMix n => exact wireDecode_inp.mpr ⟨kindOfIn_mtrMix, rfl⟩

/-- The wire decode is the table of R79. -/
theorem wireDecode_eq_some_iff : wireDecode r = some kind ↔ OfKind r kind := by
  refine ⟨fun h => ?_, OfKind.wireDecode⟩
  cases r with
  | out code value index payload =>
    obtain ⟨hk, rfl⟩ := wireDecode_out.mp h
    exact .of_kindOfOut hk payload
  | inp code value index n =>
    obtain ⟨hk, rfl⟩ := wireDecode_inp.mp h
    exact .of_kindOfIn hk n

end

/-! ## The request that a request kind emits (spec/30_encoding.md R79) -/

/-- The request of each request kind, its operands as they stand on the wire. -/
inductive Emits : Instr → ControlRequest → Prop
  | imp (c : Byte) (mode : ImpMode) :
    Emits (.wImp c mode) (.out Config.setRequestCode (0x09#8 ++ c) 0x0100 [impCode mode, 0x00])
  | clk (clock : Clock) : Emits (.wClk clock) (.out Config.setRequestCode 0x0100 0x2800 [clkCode clock])
  | mute (k m : Byte) : Emits (.wMute k m) (.out Config.setRequestCode (0x01#8 ++ k) 0x0a00 [m, 0x00])
  | att (k p0 p1 : Byte) : Emits (.wAtt k p0 p1) (.out Config.setRequestCode (0x02#8 ++ k) 0x0a00 [p0, p1])
  | src (i : Byte) (src : SignalSource) :
    Emits (.wSrc i src) (.out Config.setRequestCode (0x06#8 ++ i) 0x3200 [srcCode src, 0x00])
  | gain (i : BitVec 5) (b : BitVec 3) (p0 p1 : Byte) :
    Emits (.wGain i b p0 p1) (.out Config.setRequestCode (0x01#8 ++ i ++ b) 0x3c00 [p0, p1])
  | route (d : Byte) (bus : MixBus) :
    Emits (.wRoute d bus) (.out Config.setRequestCode (0x00#8 ++ d) 0x3300 [busByte bus, 0x00])
  | save : Emits .wSave saveRequest
  | mtrIn : Emits .wMtrIn inputBlockRequest
  | mtrDaw : Emits .wMtrDaw dawBlockRequest
  | mtrMix : Emits .wMtrMix mixerBlockRequest

/-- Every instruction that is no command emits one request. -/
theorem exists_emits {i : Instr} (hi : isCommand i = false) : ∃ r, Emits i r := by
  cases i
  case wImp c mode => exact ⟨_, .imp c mode⟩
  case wClk clock => exact ⟨_, .clk clock⟩
  case wMute k m => exact ⟨_, .mute k m⟩
  case wAtt k p0 p1 => exact ⟨_, .att k p0 p1⟩
  case wSrc i src => exact ⟨_, .src i src⟩
  case wGain i b p0 p1 => exact ⟨_, .gain i b p0 p1⟩
  case wRoute d bus => exact ⟨_, .route d bus⟩
  case wSave => exact ⟨_, .save⟩
  case wMtrIn => exact ⟨_, .mtrIn⟩
  case wMtrDaw => exact ⟨_, .mtrDaw⟩
  case wMtrMix => exact ⟨_, .mtrMix⟩
  all_goals cases hi

section

variable {i : Instr} {r : ControlRequest} {s t : State}

theorem Emits.isCommand (h : Emits i r) : isCommand i = false := by cases h <;> rfl

theorem Emits.exec_eq (h : Emits i r) (s : State) : exec i s = issue i.wellFormed r s := by cases h <;> rfl

theorem Emits.exec_eq_logged (h : Emits i r) (hw : i.wellFormed = true) (hs : Answered 1 s) :
    exec i s = .next (logged r s) := by
  rw [h.exec_eq, hw]
  exact conduct_answered hs

theorem Emits.eq_logged (h : Emits i r) (ht : exec i s = .next t) : t = logged r s :=
  (issue_next ((h.exec_eq s).symm.trans ht)).2.2

/-! The payload gives back the operands that `value` does not hold: a code names its member, since no two members of a
table share one. -/

theorem namedPayload_imp (c : Byte) (mode : ImpMode) :
    namedPayload (.imp c) [impCode mode, 0x00] = [.impCode mode, .byte 0x00] := by
  have member : mode ∈ impModesInOrder := by cases mode <;> decide
  simp [namedPayload, firstByte, memberOf_code impCode_injective member]

theorem namedPayload_clk (clock : Clock) : namedPayload .clk [clkCode clock] = [.clkCode clock] := by
  have member : clock ∈ clocksInOrder := by cases clock <;> decide
  simp [namedPayload, firstByte, memberOf_code clkCode_injective member]

theorem namedPayload_src (i : Byte) (src : SignalSource) :
    namedPayload (.src i) [srcCode src, 0x00] = [.srcCode src, .byte 0x00] := by
  have member : src ∈ sourcesInOrder := by cases src <;> decide
  simp [namedPayload, firstByte, memberOf_code srcCode_injective member]

theorem namedPayload_route (d : Byte) (bus : MixBus) :
    namedPayload (.route d) [busByte bus, 0x00] = [.busByte bus, .byte 0x00] := by
  have member : bus ∈ busesInOrder := by
    rcases bus with src | out
    · cases src <;> decide
    · cases out <;> decide
  simp [namedPayload, firstByte, memberOf_code busByte_injective member]

theorem decodeRequest_of_ofKind {code : Byte} {value index : Half} {payload : List Byte} {kind : RequestKind}
    {named : List PayloadByte} (hk : OfKind (.out code value index payload) kind)
    (hn : namedPayload kind payload = named) (hp : withPayload kind named = some i) :
    decodeRequest (.out code value index payload) = .ok i := by
  rw [decodeRequest_out hk.wireDecode, hn, hp]
  rfl

/-- The request of a request kind decodes to it. -/
theorem Emits.decodeRequest (h : Emits i r) : decodeRequest r = .ok i := by
  cases h with
  | imp c mode => exact decodeRequest_of_ofKind (.imp_of_byte c _) (namedPayload_imp _ mode) (withPayload_imp c mode)
  | clk clock => exact decodeRequest_of_ofKind (.clk _) (namedPayload_clk clock) (by rfl)
  | mute k m => exact decodeRequest_of_ofKind (.mute k _) rfl rfl
  | att k p0 p1 => exact decodeRequest_of_ofKind (.att k _) rfl rfl
  | src i src => exact decodeRequest_of_ofKind (.src i _) (namedPayload_src i src) rfl
  | gain i b p0 p1 => exact decodeRequest_of_ofKind (.gain i b _) rfl rfl
  | route d bus => exact decodeRequest_of_ofKind (.route d _) (namedPayload_route d bus) rfl
  | save => exact decodeRequest_of_ofKind (.save _) rfl rfl
  | mtrIn => exact decodeRequest_inp (OfKind.mtrIn _).wireDecode
  | mtrDaw => exact decodeRequest_inp (OfKind.mtrDaw _).wireDecode
  | mtrMix => exact decodeRequest_inp (OfKind.mtrMix _).wireDecode

end

/-! ## The operands in their domains (spec/20_memory.md R51, spec/41_topology_encoder.md R130-R144)

Each `value` of the address map, written as the fields of R79; and the requests of the set commands in these fields. -/

theorem impValue (c : Fin 2) : BitVec.ofNat 16 (0x0901 + c.val) = 0x09#8 ++ byteOf (c.val + 1) := by
  revert c; decide
theorem muteValue (k : Fin 5) : BitVec.ofNat 16 (0x0100 + k.val) = 0x01#8 ++ byteOf k.val := by revert k; decide
theorem attValue (k : Fin 5) : BitVec.ofNat 16 (0x0200 + k.val) = 0x02#8 ++ byteOf k.val := by revert k; decide
theorem srcValue (i : Fin 18) : BitVec.ofNat 16 (0x0600 + i.val) = 0x06#8 ++ byteOf i.val := by revert i; decide
theorem routeValue (d : Fin 6) : BitVec.ofNat 16 d.val = 0x00#8 ++ byteOf d.val := by revert d; decide

theorem gainValue (i : Fin 18) (b : Fin 6) :
    BitVec.ofNat 16 (0x0100 + 8 * i.val + b.val) = 0x01#8 ++ BitVec.ofNat 5 i.val ++ BitVec.ofNat 3 b.val := by
  revert i b; decide

theorem requestOf_imp (c : Fin 2) (mode : ImpMode) : requestOf (.imp c mode) =
    .out Config.setRequestCode (0x09#8 ++ byteOf (c.val + 1)) 0x0100 [impCode mode, 0x00] := by
  rw [requestOf, half, ← BitVec.ofNat_add, impValue]

theorem requestOf_mute (k : Fin 5) (m : Bool) : requestOf (.mute k m) =
    .out Config.setRequestCode (0x01#8 ++ byteOf k.val) 0x0a00 [muteByte m, 0x00] := by
  rw [requestOf, half, ← BitVec.ofNat_add, muteValue]

theorem requestOf_att (k : Fin 5) (d : DbOperand) : requestOf (.att k d) =
    .out Config.setRequestCode (0x02#8 ++ byteOf k.val) 0x0a00 (pairPayload (attenuationToWire d.value)) := by
  rw [requestOf, half, ← BitVec.ofNat_add, attValue]

theorem requestOf_src (i : Fin 18) (source : SignalSource) : requestOf (.src i source) =
    .out Config.setRequestCode (0x06#8 ++ byteOf i.val) 0x3200 [srcCode source, 0x00] := by
  rw [requestOf, half, ← BitVec.ofNat_add, srcValue]

theorem requestOf_gain (i : Fin 18) (b : Fin 6) (d : DbOperand) : requestOf (.gain i b d) =
    .out Config.setRequestCode (0x01#8 ++ BitVec.ofNat 5 i.val ++ BitVec.ofNat 3 b.val) 0x3c00
      (pairPayload (gainToWire d.value)) := by
  have value : 0x0100#16 + ((half i <<< 3) + (half b &&& 0x07#16)) =
      0x01#8 ++ BitVec.ofNat 5 i.val ++ BitVec.ofNat 3 b.val := by revert i b; decide
  rw [requestOf, value]

theorem requestOf_route (d : Fin 6) (bus : MixBus) : requestOf (.route d bus) =
    .out Config.setRequestCode (0x00#8 ++ byteOf d.val) 0x3300 [busByte bus, 0x00] := by
  rw [requestOf, half, routeValue]

theorem wImp_wellFormed (c : Fin 2) (mode : ImpMode) : (Instr.wImp (byteOf (c.val + 1)) mode).wellFormed = true := by
  revert c; cases mode <;> decide
theorem wMute_wellFormed (k : Fin 5) (m : Fin 2) : (Instr.wMute (byteOf k.val) (byteOf m.val)).wellFormed = true := by
  revert k m; decide
theorem wAtt_wellFormed (k : Fin 5) {p0 p1 : Byte} (hp : attPayloadOk p0 p1 = true) :
    (Instr.wAtt (byteOf k.val) p0 p1).wellFormed = true := by
  have hk : (byteOf k.val).toNat ≤ 4 := by revert k; decide
  simp only [Instr.wellFormed, hk, hp, decide_true, Bool.and_self]
theorem wSrc_wellFormed (i : Fin 18) (src : SignalSource) : (Instr.wSrc (byteOf i.val) src).wellFormed = true := by
  have hi : (byteOf i.val).toNat ≤ 17 := by revert i; decide
  exact decide_eq_true hi
theorem wGain_wellFormed (i : Fin 18) (b : Fin 6) {p0 p1 : Byte} (hp : gainPayloadOk p0 p1 = true) :
    (Instr.wGain (BitVec.ofNat 5 i.val) (BitVec.ofNat 3 b.val) p0 p1).wellFormed = true := by
  have hi : (BitVec.ofNat 5 i.val).toNat ≤ 17 := by revert i; decide
  have hb : (BitVec.ofNat 3 b.val).toNat ≤ 5 := by revert b; decide
  simp only [Instr.wellFormed, hi, hb, hp, decide_true, Bool.and_self]
theorem wRoute_wellFormed (d : Fin 6) (bus : MixBus) : (Instr.wRoute (byteOf d.val) bus).wellFormed = true := by
  have hd : (byteOf d.val).toNat ≤ 5 := by revert d; decide
  exact decide_eq_true hd

/-! The codecs give only payloads that are well formed. -/

theorem roundHalfAway_of_pos {a : Int} (ha : 0 < a) (den : Nat) :
    roundHalfAway a den = (2 * a + den) / (2 * den) := by
  rw [roundHalfAway, Int.sign_eq_one_of_pos ha, one_mul]
  push_cast
  rw [abs_of_pos ha]

/-- The range of the rounded word in R102's last branch (R103). -/
theorem roundedAttenuation_mem {n : Int} (lo : -128 * (dbUnit : Int) < n) (hi : n < 0) :
    32769 ≤ roundHalfAway (131073 * (dbUnit : Int) + 512 * n) (2 * dbUnit) ∧
      roundHalfAway (131073 * (dbUnit : Int) + 512 * n) (2 * dbUnit) ≤ 65536 := by
  have hu : (0 : Int) < dbUnit := Int.natCast_pos.mpr dbUnit_pos
  rw [roundHalfAway_of_pos (by omega)]
  push_cast
  exact ⟨Int.le_ediv_of_mul_le (by omega) (by omega),
    Int.le_of_lt_add_one (Int.ediv_lt_of_lt_mul (by omega) (by omega))⟩

theorem attPayloadOk_ofInt {w : Int} (lo : 32769 ≤ w) (hi : w ≤ 65536) :
    attPayloadOk (BitVec.ofInt 8 w) (BitVec.ofInt 8 (w / 256)) = true := by
  rcases hi.eq_or_lt with rfl | hi
  · decide
  · have high : 0x80 ≤ (BitVec.ofInt 8 (w / 256)).toNat := by
      rw [BitVec.toNat_ofInt]
      omega
    simp only [attPayloadOk, ge_iff_le, high, decide_true, Bool.true_or]

theorem attPayloadOk_attenuationToWire (x : ExactDb) :
    attPayloadOk (attenuationToWire x).1 (attenuationToWire x).2 = true := by
  cases x with
  | negInf | posInf => decide
  | finite n =>
    unfold attenuationToWire
    dsimp only
    split_ifs with hlo hhi
    · decide
    · decide
    · obtain ⟨lo, hi⟩ := roundedAttenuation_mem (not_le.mp hlo) (not_le.mp hhi)
      exact attPayloadOk_ofInt lo hi

theorem clampGain_mem (r : Int) : -128 ≤ clampGain r ∧ clampGain r ≤ 6 := by
  unfold clampGain
  split_ifs <;> omega

theorem gainPayloadOk_ofInt {v : Int} (lo : -128 ≤ v) (hi : v ≤ 6) : gainPayloadOk 0x00 (BitVec.ofInt 8 v) = true := by
  have range : (BitVec.ofInt 8 v).toNat ≤ 6 ∨ 0x80 ≤ (BitVec.ofInt 8 v).toNat := by
    rw [BitVec.toNat_ofInt]
    omega
  simpa [gainPayloadOk] using range

theorem gainPayloadOk_gainToWire (x : ExactDb) : gainPayloadOk (gainToWire x).1 (gainToWire x).2 = true := by
  cases x with
  | negInf | posInf => decide
  | finite n =>
    obtain ⟨lo, hi⟩ := clampGain_mem (roundHalfAway n dbUnit)
    exact gainPayloadOk_ofInt lo hi

/-! ## The address map and the request kinds -/

/-- Every request of the address map is that of a well-formed request kind. -/
theorem InAddressMap.exists_emits {r : ControlRequest} (h : InAddressMap r) :
    ∃ i, i.wellFormed = true ∧ Emits i r := by
  cases h with
  | impedance c mode =>
    rw [impValue]
    exact ⟨_, wImp_wellFormed c mode, .imp _ mode⟩
  | clockSource clock => exact ⟨_, rfl, .clk clock⟩
  | unmute k =>
    rw [muteValue]
    exact ⟨_, wMute_wellFormed k 0, .mute _ _⟩
  | mute k =>
    rw [muteValue]
    exact ⟨_, wMute_wellFormed k 1, .mute _ _⟩
  | attenuation k x =>
    rw [attValue]
    exact ⟨_, wAtt_wellFormed k (attPayloadOk_attenuationToWire x), .att _ _ _⟩
  | source i src =>
    rw [srcValue]
    exact ⟨_, wSrc_wellFormed i src, .src _ src⟩
  | gain i b x =>
    rw [gainValue]
    exact ⟨_, wGain_wellFormed i b (gainPayloadOk_gainToWire x), .gain _ _ _ _⟩
  | router d bus =>
    rw [routeValue]
    exact ⟨_, wRoute_wellFormed d bus, .route _ bus⟩
  | saveToHardware => exact ⟨_, rfl, .save⟩
  | inputMeters => exact ⟨_, rfl, .mtrIn⟩
  | dawMeters => exact ⟨_, rfl, .mtrDaw⟩
  | mixerMeters => exact ⟨_, rfl, .mtrMix⟩

theorem Emits.wireDecode_ne_none {i : Instr} {r : ControlRequest} (h : Emits i r) : wireDecode r ≠ none := fun hn => by
  have := h.decodeRequest
  rw [Machine.decodeRequest, hn] at this
  cases this

/-- Settles O13: each set command's request, in the fields of R79, is of its kind and is that of its request kind. -/
theorem wireDecodeRecoversTheOperands : Obligations.WireDecodeRecoversTheOperands := by
  refine ⟨fun _ _ => wireDecode_eq_some_iff, fun r hn h => ?_, fun c mode => ?_, fun clock => ?_, fun k m => ?_,
    fun k d => ?_, fun i src => ?_, fun i b d => ?_, fun d bus => ?_, OfKind.wireDecode (.save _),
    OfKind.wireDecode (.mtrIn _), OfKind.wireDecode (.mtrDaw _), OfKind.wireDecode (.mtrMix _),
    fun c mode => ?_, fun clock => ?_, fun k m => ?_, fun k d => ?_, fun i src => ?_, fun i b d => ?_, fun d bus => ?_,
    Emits.decodeRequest .save, Emits.decodeRequest .mtrIn, Emits.decodeRequest .mtrDaw, Emits.decodeRequest .mtrMix⟩
  · obtain ⟨i, -, emits⟩ := h.exists_emits
    exact emits.wireDecode_ne_none hn
  · rw [requestOf_imp, byteOf, BitVec.ofNat_add]
    exact OfKind.wireDecode (.imp _ _)
  · exact OfKind.wireDecode (.clk _)
  · rw [requestOf_mute]
    exact OfKind.wireDecode (.mute _ _)
  · rw [requestOf_att]
    exact OfKind.wireDecode (.att _ _)
  · rw [requestOf_src]
    exact OfKind.wireDecode (.src _ _)
  · rw [requestOf_gain]
    exact OfKind.wireDecode (.gain _ _ _)
  · rw [requestOf_route]
    exact OfKind.wireDecode (.route _ _)
  · rw [requestOf_imp]
    exact Emits.decodeRequest (.imp _ _)
  · exact Emits.decodeRequest (.clk _)
  · rw [requestOf_mute]
    exact Emits.decodeRequest (.mute _ _)
  · rw [requestOf_att]
    exact Emits.decodeRequest (.att _ _ _)
  · rw [requestOf_src]
    exact Emits.decodeRequest (.src _ _)
  · rw [requestOf_gain]
    exact Emits.decodeRequest (.gain _ _ _ _)
  · rw [requestOf_route]
    exact Emits.decodeRequest (.route _ _)

/-- Settles O52: by the one request of each request kind, which decodes to it and covers the address map. -/
theorem requestKindEmitsItsOneRequest : Obligations.RequestKindEmitsItsOneRequest := by
  refine ⟨fun s p0 p1 hs => ⟨fun c mode => ?_, fun clock => ?_, fun k m => ?_, fun k hp => ?_, fun i src => ?_,
    fun i b hp => ?_, fun d bus => ?_, ?_, ?_, ?_, ?_⟩, fun i s t hi ht => ?_, fun r hr => ?_⟩
  · rw [impValue]
    exact Emits.exec_eq_logged (.imp _ _) (wImp_wellFormed c mode) hs
  · exact Emits.exec_eq_logged (.clk _) rfl hs
  · rw [muteValue]
    exact Emits.exec_eq_logged (.mute _ _) (wMute_wellFormed k m) hs
  · rw [attValue]
    exact Emits.exec_eq_logged (.att _ _ _) (wAtt_wellFormed k hp) hs
  · rw [srcValue]
    exact Emits.exec_eq_logged (.src _ _) (wSrc_wellFormed i src) hs
  · rw [gainValue]
    exact Emits.exec_eq_logged (.gain _ _ _ _) (wGain_wellFormed i b hp) hs
  · rw [routeValue]
    have := Emits.exec_eq_logged (.route (byteOf d.val) bus) (wRoute_wellFormed d bus) hs
    cases bus <;> exact this
  · exact Emits.exec_eq_logged .save rfl hs
  · exact Emits.exec_eq_logged .mtrIn rfl hs
  · exact Emits.exec_eq_logged .mtrDaw rfl hs
  · exact Emits.exec_eq_logged .mtrMix rfl hs
  · obtain ⟨r, emits⟩ := exists_emits hi
    exact ⟨r, emits.eq_logged ht, emits.decodeRequest⟩
  · obtain ⟨i, hw, emits⟩ := hr.exists_emits
    exact ⟨i, emits.isCommand, hw, fun s hs => emits.exec_eq_logged hw hs⟩

end Sys2Proof.Machine

/-! ## The codec commands (spec/40_codecs.md R104, R108, R114)

A command that has its operand answers one word and ends with OK; it remains to read that word off the bytes it is put
together from. -/

namespace Sys2Proof.Machine

/-- The payload's word under 48 zero bits is RES (spec/30_encoding.md R78). -/
theorem payloadRes_eq (p : Byte × Byte) : payloadRes p = 0#48 ++ p.2 ++ p.1 := by
  have h0 := p.1.isLt
  have h1 := p.2.isLt
  apply BitVec.eq_of_toNat_eq
  rw [payloadRes, payloadWord, append_eq_ofNat, append_eq_ofNat, append_eq_ofNat]
  simp only [BitVec.toNat_setWidth, BitVec.toNat_ofNat]
  omega

/-- The sample of CVTMETER: A is the high byte (R114). -/
theorem sample_toNat (a b : Byte) : (a ++ b).toNat = 256 * a.toNat + b.toNat := by
  rw [append_eq_ofNat, BitVec.toNat_ofNat]
  omega

/-- Settles O21: the operand passes its check, and RES is the payload's word. -/
theorem cvtattAnswersTheAttenuationWord : Obligations.CvtattAnswersTheAttenuationWord := by
  intro s d x hx
  rw [← payloadRes_eq]
  simp only [exec, execCvtatt, dbOperand?_of_exactValue hx, require_some]
  rfl

/-- Settles O22: the operand passes its check, and RES is the payload's word. -/
theorem cvtgainAnswersTheGainWord : Obligations.CvtgainAnswersTheGainWord := by
  intro s d x hx
  rw [← payloadRes_eq]
  simp only [exec, execCvtgain, dbOperand?_of_exactValue hx, require_some]
  rfl

/-- Settles O23: the sample's number is 256·A + B. -/
theorem cvtmeterReadsTheMeterTable : Obligations.CvtmeterReadsTheMeterTable := by
  intro s a b
  rw [← sample_toNat]
  rfl

end Sys2Proof.Machine

/-! ## The rounding of the codecs (spec/00_scope.md R11) and their payloads (spec/40_codecs.md R101-R107, R116)

The rounded integer is nearest to its argument; on a positive argument it is a floor, from which the closed form of
R103 follows. Both payloads are the two bytes of one integer, so that integer modulo 2^16 is the word. -/

namespace Sys2Proof.Machine

section

variable {n : Int} {den : Nat}

/-- `r` is the integer nearest to n / den, and at a tie the one away from zero (R105). -/
def NearestAway (n : Int) (den : Nat) (r : Int) : Prop :=
  2 * |n - r * den| ≤ den ∧ (2 * |n - r * den| = den → |n| < |r * den|)

theorem NearestAway.neg {r : Int} (h : NearestAway n den r) : NearestAway (-n) den (-r) := by
  unfold NearestAway
  rwa [show -n - -r * den = -(n - r * den) by ring, neg_mul, abs_neg, abs_neg, abs_neg]

theorem roundHalfAway_neg (n : Int) (den : Nat) : roundHalfAway (-n) den = -roundHalfAway n den := by
  rw [roundHalfAway, roundHalfAway, Int.sign_neg, Int.natAbs_neg, neg_mul]

/-- Below one half the rounded integer is 0. -/
theorem roundHalfAway_eq_zero (h : 2 * n.natAbs < den) : roundHalfAway n den = 0 := by
  rw [roundHalfAway, Nat.div_eq_of_lt (by omega), Nat.cast_zero, mul_zero]

theorem nearestAway_roundHalfAway_of_pos (hn : 0 < n) (hd : 0 < den) :
    NearestAway n den (roundHalfAway n den) := by
  rw [roundHalfAway_of_pos hn]
  have nonneg : 0 ≤ (2 * n + den) / (2 * den : Int) * den := by positivity
  have lower := Int.ediv_mul_le (2 * n + den) (b := 2 * den) (by omega)
  have upper := Int.lt_ediv_add_one_mul_self (2 * n + den) (b := 2 * den) (by omega)
  unfold NearestAway
  generalize (2 * n + den) / (2 * den : Int) = r at *
  rw [abs_of_pos hn, abs_of_nonneg nonneg]
  rcases abs_cases (n - r * den) with ⟨h, -⟩ | ⟨h, -⟩ <;> rw [h] <;> constructor <;> intros <;> nlinarith

theorem nearestAway_roundHalfAway (n : Int) (hd : 0 < den) : NearestAway n den (roundHalfAway n den) := by
  rcases lt_trichotomy n 0 with neg | rfl | pos
  · have h := (nearestAway_roundHalfAway_of_pos (Int.neg_pos.mpr neg) hd).neg
    rwa [roundHalfAway_neg, neg_neg, neg_neg] at h
  · rw [roundHalfAway_eq_zero (by simpa using hd)]
    simp [NearestAway, (Int.natCast_pos.mpr hd).ne]
  · exact nearestAway_roundHalfAway_of_pos pos hd

end

/-! The word of a payload. -/

theorem payloadWord_ofInt (w : Int) : payloadWord (BitVec.ofInt 8 w, BitVec.ofInt 8 (w / 256)) = BitVec.ofInt 16 w := by
  apply BitVec.eq_of_toNat_eq
  rw [payloadWord, append_eq_ofNat]
  simp only [BitVec.toNat_ofNat, BitVec.toNat_ofInt]
  omega

theorem clampGain_eq (r : Int) : clampGain r = max (-128) (min 6 r) := by
  unfold clampGain
  split_ifs <;> omega

/-- The gain word has the clamped integer in its high byte (R107). -/
theorem payloadWord_gain (v : Int) : payloadWord (0x00, BitVec.ofInt 8 v) = BitVec.ofInt 16 (256 * v) := by
  have low : (0x00 : Byte) = BitVec.ofInt 8 (256 * v) := BitVec.eq_of_toNat_eq (by
    rw [BitVec.toNat_ofInt]
    show 0 = _
    omega)
  rw [← payloadWord_ofInt, Int.mul_ediv_cancel_left v (by decide), low]

/-- Settles O16: by the rounding that is nearest, the clamp as a maximum of a minimum, and the word of a gain. -/
theorem gainWordIsTheClampedNearestInteger : Obligations.GainWordIsTheClampedNearestInteger := by
  refine ⟨fun n => ?_, rfl, rfl⟩
  obtain ⟨near, tie⟩ := nearestAway_roundHalfAway n dbUnit_pos
  refine ⟨roundHalfAway n dbUnit, near, tie, ?_, ?_⟩
  · rw [gainToWire, clampGain_eq]
  · rw [gainToWire, clampGain_eq, payloadWord_gain, BitVec.toNat_ofInt, Int.toNat_of_nonneg (by omega)]
    rfl

/-! The three branches of attenuationToWire (R102), the third in its closed form (R103). -/

section

variable {n : Int}

theorem attenuationToWire_of_le (h : n ≤ -128 * (dbUnit : Int)) : attenuationToWire (.finite n) = (0x00, 0x80) := by
  rw [attenuationToWire, if_pos h]

theorem attenuationToWire_of_nonneg (h : 0 ≤ n) : attenuationToWire (.finite n) = (0x00, 0x00) := by
  have above : ¬ n ≤ -128 * (dbUnit : Int) := by have := dbUnit_pos; omega
  rw [attenuationToWire, if_neg above, if_pos h]

/-- F = floor(256x) for x = n / 2^1074. -/
def floor256 (n : Int) : Int := 256 * n / (dbUnit : Int)

/-- R103: the argument is positive, where rounding half away is rounding half up. -/
theorem roundedAttenuation_eq (lo : -128 * (dbUnit : Int) < n) :
    roundHalfAway (131073 * (dbUnit : Int) + 512 * n) (2 * dbUnit) = 65537 + floor256 n := by
  have hu : (0 : Int) < dbUnit := Int.natCast_pos.mpr dbUnit_pos
  have quotient : 2 * (131073 * (dbUnit : Int) + 512 * n) + (2 * dbUnit : Nat) = 4 * (256 * n + 65537 * dbUnit) := by
    push_cast
    ring
  rw [roundHalfAway_of_pos (by omega), quotient, show 2 * ((2 * dbUnit : Nat) : Int) = 4 * dbUnit by push_cast; ring,
    Int.mul_ediv_mul_of_pos _ _ (by decide), Int.add_mul_ediv_right _ _ hu.ne', add_comm, floor256]

theorem payloadWord_attenuation (lo : -128 * (dbUnit : Int) < n) (hi : n < 0) :
    payloadWord (attenuationToWire (.finite n)) = BitVec.ofInt 16 (65537 + floor256 n) := by
  rw [attenuationToWire, if_neg (not_le.mpr lo), if_neg (not_le.mpr hi), roundedAttenuation_eq lo, payloadWord_ofInt]

theorem floor256_mem (lo : -128 * (dbUnit : Int) < n) (hi : n < 0) : -32768 ≤ floor256 n ∧ floor256 n ≤ -1 := by
  have range := roundedAttenuation_mem lo hi
  rw [roundedAttenuation_eq lo] at range
  omega

/-- In the last step below 0 dB the word is that of 0 dB, since there F = -1. -/
theorem floor256_eq_neg_one (lo : -(dbUnit : Int) ≤ 256 * n) (hi : n < 0) : floor256 n = -1 := by
  have hu : (0 : Int) < dbUnit := Int.natCast_pos.mpr dbUnit_pos
  rw [floor256, Int.ediv_eq_iff_of_pos hu]
  omega

theorem floor256_of_mul (k : Int) (h : 256 * n = k * (dbUnit : Int)) : floor256 n = k := by
  rw [floor256, h, Int.mul_ediv_cancel _ (Int.natCast_pos.mpr dbUnit_pos).ne']

theorem floor256_lt_neg_one (h : 256 * n < -(dbUnit : Int)) : floor256 n < -1 :=
  Int.ediv_lt_of_lt_mul (Int.natCast_pos.mpr dbUnit_pos) (by omega)

/-- Just below 0 dB the word is rounded up to 2^16, whose two low bytes are 0. -/
theorem attenuationToWire_of_last_step (lo : -(dbUnit : Int) ≤ 256 * n) (hi : n < 0) :
    attenuationToWire (.finite n) = (0x00, 0x00) := by
  have above : -128 * (dbUnit : Int) < n := by have := dbUnit_pos; omega
  rw [attenuationToWire, if_neg (not_le.mpr above), if_neg (not_le.mpr hi), roundedAttenuation_eq above,
    floor256_eq_neg_one lo hi]
  decide

/-- The word as an unsigned and as a signed number, by the range of F. -/
theorem attenuationWord_toNat (lo : -128 * (dbUnit : Int) < n) (hi : n < 0) :
    ((payloadWord (attenuationToWire (.finite n))).toNat : Int) = (65537 + floor256 n) % 65536 := by
  rw [payloadWord_attenuation lo hi, BitVec.toNat_ofInt, Int.toNat_of_nonneg (by omega)]
  rfl

theorem attenuationWord_toInt (lo : -128 * (dbUnit : Int) < n) (hi : n < 0) :
    (payloadWord (attenuationToWire (.finite n))).toInt = floor256 n + 1 := by
  have range := floor256_mem lo hi
  rw [payloadWord_attenuation lo hi, BitVec.toInt_ofInt, Int.bmod_def]
  split_ifs <;> omega

end

/-- 0x8000 is -128 dB, which only the sentinel branch sends: the third branch's words are above it. -/
theorem attenuationWord_eq_floor_iff (x : ExactDb) : payloadWord (attenuationToWire x) = 0x8000 ↔
    x = .negInf ∨ ∃ n : Int, n ≤ -128 * (dbUnit : Int) ∧ x = .finite n := by
  cases x with
  | negInf => exact iff_of_true (by decide) (.inl rfl)
  | posInf => exact iff_of_false (by decide) (by rintro (h | ⟨_, _, h⟩) <;> cases h)
  | finite n =>
    by_cases sentinel : n ≤ -128 * (dbUnit : Int)
    · rw [attenuationToWire_of_le sentinel]
      exact iff_of_true (by decide) (.inr ⟨n, sentinel, rfl⟩)
    · refine iff_of_false (fun h => ?_) fun h => ?_
      · by_cases zero : 0 ≤ n
        · rw [attenuationToWire_of_nonneg zero] at h
          exact absurd h (by decide)
        · have range := floor256_mem (not_le.mp sentinel) (not_le.mp zero)
          have value := attenuationWord_toInt (not_le.mp sentinel) (not_le.mp zero)
          rw [h, show (0x8000 : Half).toInt = -32768 by decide] at value
          omega
      · rcases h with h | ⟨_, le, h⟩ <;> cases h
        exact sentinel le

/-- Settles O15: the rounded argument is 65537 + F, its low 16 bits are the word, and F runs from -32768 to -1. -/
theorem attenuationClosedForm : Obligations.AttenuationClosedForm := by
  have hu : (0 : Int) < dbUnit := Int.natCast_pos.mpr dbUnit_pos
  refine ⟨fun n lo hi => ?_, attenuationWord_eq_floor_iff, fun n h => ?_, by decide, ?_⟩
  · obtain ⟨Flo, Fhi⟩ := floor256_mem lo hi
    have unsigned := attenuationWord_toNat lo hi
    have signed := attenuationWord_toInt lo hi
    refine ⟨by omega, by omega, roundedAttenuation_eq lo, ?_, ?_, unsigned, fun low => ?_, fun last => ?_, signed,
      fun k hk => by rw [signed, floor256_of_mul k hk]⟩
    · show 32769 ≤ 65537 + floor256 n
      omega
    · show 65537 + floor256 n ≤ 65536
      omega
    · have := floor256_lt_neg_one low
      omega
    · rw [attenuationToWire_of_last_step last hi]
      decide
  · rw [attenuationToWire_of_nonneg h]
    decide
  · rw [payloadWord_attenuation (by omega) (by omega), floor256_of_mul (-1536) (by ring)]
    decide

/-! The special operands (R116). -/

/-- Every magnitude that a subnormal can have is far below the step of either codec. -/
theorem fractionOf_mul_lt_dbUnit (d : Dword) : 256 * fractionOf d < dbUnit :=
  calc 256 * fractionOf d < 256 * 2 ^ 52 := by have := fractionOf_lt d; omega
    _ = 2 ^ 60 := by norm_num
    _ ≤ dbUnit := by rw [dbUnit]; gcongr <;> decide

/-- Zeros and subnormals: exponent 0, so the value is the signed fraction. -/
theorem exactValue_of_exponent_zero {d : Dword} (h : exponentOf d = 0) :
    ∃ n : Int, exactValue d = some (.finite n) ∧ 256 * n.natAbs < dbUnit := by
  refine ⟨_, exactValue_of_finite (by omega), ?_⟩
  rw [magnitudeOf_subnormal h]
  have small := fractionOf_mul_lt_dbUnit d
  split_ifs <;> omega

theorem attenuationToWire_of_small {n : Int} (h : 256 * n.natAbs < dbUnit) :
    attenuationToWire (.finite n) = (0x00, 0x00) := by
  by_cases neg : n < 0
  · exact attenuationToWire_of_last_step (by omega) neg
  · exact attenuationToWire_of_nonneg (by omega)

theorem gainToWire_of_small {n : Int} (h : 256 * n.natAbs < dbUnit) : gainToWire (.finite n) = (0x00, 0x00) := by
  rw [gainToWire, roundHalfAway_eq_zero (by omega)]
  decide

/-- Settles O18: by the value of each special word, an infinity or a number below one step of the codecs. -/
theorem specialOperandsOfTheCodecs : Obligations.SpecialOperandsOfTheCodecs := by
  refine ⟨fun d h => by rw [dbOperand?, exactValue_of_nan h, Option.map_none], ?_⟩
  rintro d (rfl | rfl | h)
  · exact ⟨⟨_, .negInf⟩, by decide +kernel, rfl, by decide, by decide, by decide⟩
  · exact ⟨⟨_, .posInf⟩, by decide +kernel, rfl, by decide, by decide, by decide⟩
  · obtain ⟨n, hv, small⟩ := exactValue_of_exponent_zero (show exponentOf d = 0 by rw [exponentOf, h]; rfl)
    refine ⟨⟨d, .finite n⟩, dbOperand?_of_exactValue hv, rfl, ?_, ?_, fun _ =>
      ⟨attenuationToWire_of_small small, gainToWire_of_small small⟩⟩
    all_goals
      rintro rfl
      exact absurd h (by decide)

end Sys2Proof.Machine

/-! ## The rounding of the meter table to binary64 (spec/40_codecs.md R112)

`roundTo53 q` is the number that the significand and the exponent of `magnitudeBits q k` stand for: q rounded to 53
bits. It keeps the order of its arguments and is off by at most a part in 2^53. -/

namespace Sys2Proof.Machine

section

variable {q r drop : Nat}

/-- `q` rounded to 53 bits, to nearest with ties to even, for a `q` of at least 53 bits. -/
def roundTo53 (q : Nat) : Nat := roundedSignificand q (Nat.log2 q - 52) * 2 ^ (Nat.log2 q - 52)

/-- The rounded significand, with quotient and remainder in place of the shift. -/
theorem roundedSignificand_eq (q drop : Nat) : roundedSignificand q drop =
    if 2 ^ (drop - 1) < q % 2 ^ drop ∨ (q % 2 ^ drop = 2 ^ (drop - 1) ∧ q / 2 ^ drop % 2 = 1) then q / 2 ^ drop + 1
    else q / 2 ^ drop := by
  rw [← Nat.shiftRight_eq_div_pow]
  rfl

theorem roundedSignificand_mem (q drop : Nat) :
    q / 2 ^ drop ≤ roundedSignificand q drop ∧ roundedSignificand q drop ≤ q / 2 ^ drop + 1 := by
  rw [roundedSignificand_eq]
  split_ifs <;> omega

/-- Of two numbers with the same kept bits, the one with more dropped is rounded up if the other is. -/
theorem roundedSignificand_mono (h : q ≤ r) : roundedSignificand q drop ≤ roundedSignificand r drop := by
  rcases (Nat.div_le_div_right h (c := 2 ^ drop)).lt_or_eq with kept | kept
  · exact (roundedSignificand_mem q drop).2.trans (Nat.le_trans kept (roundedSignificand_mem r drop).1)
  · have hq := Nat.div_add_mod q (2 ^ drop)
    have hr := Nat.div_add_mod r (2 ^ drop)
    rw [roundedSignificand_eq, roundedSignificand_eq, ← kept]
    rw [← kept] at hr
    split_ifs <;> omega

/-- Rounding to nearest: the significand is off by at most half a unit. -/
theorem roundedSignificand_near (hd : 0 < drop) :
    2 * (roundedSignificand q drop * 2 ^ drop) ≤ 2 * q + 2 ^ drop ∧
      2 * q ≤ 2 * (roundedSignificand q drop * 2 ^ drop) + 2 ^ drop := by
  have double : 2 ^ drop = 2 * 2 ^ (drop - 1) := by rw [← pow_succ', Nat.sub_add_cancel hd]
  have hq := Nat.mod_add_div' q (2 ^ drop)
  have hr := Nat.mod_lt q (show 0 < 2 ^ drop by positivity)
  rw [roundedSignificand_eq]
  split_ifs
  · rw [add_mul]
    omega
  · omega

theorem significand_mem (h : 52 ≤ Nat.log2 q) :
    2 ^ 52 ≤ roundedSignificand q (Nat.log2 q - 52) ∧ roundedSignificand q (Nat.log2 q - 52) ≤ 2 ^ 53 := by
  obtain ⟨lower, upper⟩ := roundedSignificand_mem q (Nat.log2 q - 52)
  have hq : q ≠ 0 := by rintro rfl; simp at h
  refine ⟨le_trans ?_ lower, upper.trans (Nat.succ_le_of_lt ?_)⟩
  · rw [Nat.le_div_iff_mul_le (by positivity), ← pow_add, Nat.add_sub_cancel' h]
    exact Nat.log2_self_le hq
  · rw [Nat.div_lt_iff_lt_mul (by positivity), ← pow_add, show 53 + (Nat.log2 q - 52) = Nat.log2 q + 1 by omega]
    exact Nat.lt_log2_self

/-- The rounded number stays between the powers of two around `q`. -/
theorem roundTo53_mem (h : 52 ≤ Nat.log2 q) : 2 ^ Nat.log2 q ≤ roundTo53 q ∧ roundTo53 q ≤ 2 ^ (Nat.log2 q + 1) := by
  obtain ⟨lower, upper⟩ := significand_mem h
  rw [show Nat.log2 q + 1 = 53 + (Nat.log2 q - 52) by omega, pow_add]
  nth_rw 1 [← Nat.add_sub_cancel' h, pow_add]
  exact ⟨Nat.mul_le_mul_right _ lower, Nat.mul_le_mul_right _ upper⟩

theorem log2_le_log2 (h : q ≤ r) : Nat.log2 q ≤ Nat.log2 r := by
  rw [Nat.log2_eq_log_two, Nat.log2_eq_log_two]
  exact Nat.log_mono_right h

theorem roundTo53_mono (hq : 52 ≤ Nat.log2 q) (h : q ≤ r) : roundTo53 q ≤ roundTo53 r := by
  rcases (log2_le_log2 h).lt_or_eq with shorter | same
  · calc roundTo53 q ≤ 2 ^ (Nat.log2 q + 1) := (roundTo53_mem hq).2
      _ ≤ 2 ^ Nat.log2 r := Nat.pow_le_pow_right (by decide) shorter
      _ ≤ roundTo53 r := (roundTo53_mem (by omega)).1
  · rw [roundTo53, roundTo53, same]
    exact Nat.mul_le_mul_right _ (roundedSignificand_mono h)

/-- One rounding to binary64 is off by at most a part in 2^53. -/
theorem roundTo53_near (h : 53 ≤ Nat.log2 q) : |(roundTo53 q : ℝ) - q| ≤ q / 2 ^ 53 := by
  obtain ⟨above, below⟩ := roundedSignificand_near (q := q) (drop := Nat.log2 q - 52) (by omega)
  have unit : 2 ^ 52 * 2 ^ (Nat.log2 q - 52) ≤ q := by
    rw [← pow_add, Nat.add_sub_cancel' (by omega)]
    exact Nat.log2_self_le (by rintro rfl; simp at h)
  rw [← roundTo53] at above below
  generalize 2 ^ (Nat.log2 q - 52) = u at *
  have above' : (2 : ℝ) * roundTo53 q ≤ 2 * q + u := by exact_mod_cast above
  have below' : (2 : ℝ) * q ≤ 2 * roundTo53 q + u := by exact_mod_cast below
  have unit' : (2 : ℝ) ^ 52 * u ≤ q := by exact_mod_cast unit
  rw [abs_le]
  constructor <;> linarith

end

/-! ## The value of a table entry -/

/-- A negative word whose bits below the sign are an exponent in the normal range and a significand. A significand of
2^53 carries into the exponent, and the value is the same. -/
theorem exactValue_of_toNat {d : Dword} {e sig : Nat} (he : 1 ≤ e ∧ e ≤ 2045) (hs : 2 ^ 52 ≤ sig ∧ sig ≤ 2 ^ 53)
    (hd : d.toNat = 2 ^ 63 + (e * 2 ^ 52 + (sig - 2 ^ 52))) :
    exactValue d = some (.finite (-(sig * 2 ^ (e - 1) : Nat))) := by
  have sign : signOf d = true := by
    rw [signOf_eq, decide_eq_true_iff]
    omega
  have exponent := exponentOf_eq d
  have fraction := fractionOf_eq d
  rw [exactValue_of_finite (by omega), sign, if_pos rfl, magnitudeOf_normal (by omega)]
  congr 4
  rcases hs.2.lt_or_eq with normal | carried
  · rw [show fractionOf d = sig - 2 ^ 52 by omega, show exponentOf d = e by omega, Nat.add_sub_cancel' hs.1]
  · rw [show fractionOf d = 0 by omega, show exponentOf d = e - 1 + 1 + 1 by omega, carried, Nat.add_sub_cancel,
      pow_succ]
    ring

section

variable {m : Nat}

/-- `logTwo m` has the whole part `Nat.log2 m`. -/
theorem logTwo_mem (m : Nat) : Nat.log2 m * 2 ^ 128 ≤ logTwo m ∧ logTwo m < (Nat.log2 m + 1) * 2 ^ 128 := by
  have fraction := logFraction_lt logBits (m <<< (logPrecision - Nat.log2 m))
  rw [logTwo, show logBits = 128 from rfl] at *
  omega

/-- log2 10 is between 3 and 4. -/
theorem logTwo_ten_mem : 3 * 2 ^ 128 ≤ logTwo 10 ∧ logTwo 10 < 4 * 2 ^ 128 := logTwo_mem 10

/-- A sample is at least 2^-16 octaves below full scale. -/
theorem logb_le (h1 : 1 ≤ m) (h2 : m ≤ 65535) : Real.logb 2 m ≤ 16 - 1 / 2 ^ 16 := by
  have hm : (0 : ℝ) < m := by exact_mod_cast h1
  have hm' : (m : ℝ) ≤ 65535 := by exact_mod_cast h2
  have l2 : 0 < Real.log 2 := Real.log_pos (by norm_num)
  have l2' : Real.log 2 < 1 := by linarith [Real.log_two_lt_d9]
  have ratio : Real.log (m / 65536) ≤ -(1 / 2 ^ 16) := by
    have := Real.log_le_sub_one_of_pos (show (0 : ℝ) < m / 65536 by positivity)
    linarith
  rw [Real.log_div hm.ne' (by norm_num), show (65536 : ℝ) = 2 ^ 16 by norm_num, Real.log_pow] at ratio
  rw [Real.logb, div_le_iff₀ l2]
  push_cast at ratio
  linarith

theorem logTwo_le (h1 : 1 ≤ m) (h2 : m ≤ 65535) : logTwo m + 2 ^ 112 ≤ 16 * 2 ^ 128 := by
  have h := (logTwo_bounds h1 (by omega)).1.trans (logb_le h1 h2)
  rw [div_le_iff₀ (by positivity)] at h
  have : ((logTwo m + 2 ^ 112 : Nat) : ℝ) ≤ (16 * 2 ^ 128 : Nat) := by
    push_cast
    linarith
  exact_mod_cast this

theorem meterLevel_eq (m : Nat) : meterLevel m = 20 * (16 * 2 ^ 128 - logTwo m) * 2 ^ 128 / logTwo 10 := by
  rw [meterLevel, Nat.shiftLeft_eq, show logBits = 128 from rfl]

/-- The louder the sample, the smaller its distance from full scale. -/
theorem meterLevel_anti {m' : Nat} (h1 : 1 ≤ m) (h : m ≤ m') : meterLevel m' ≤ meterLevel m := by
  have := logTwo_mono h1 h
  rw [meterLevel_eq, meterLevel_eq]
  gcongr

/-- The level has more than 53 bits, and its exponent is in the normal range of binary64. -/
theorem log2_meterLevel_mem (h1 : 1 ≤ m) (h2 : m ≤ 65535) :
    114 ≤ Nat.log2 (meterLevel m) ∧ Nat.log2 (meterLevel m) < 136 := by
  obtain ⟨lower, upper⟩ := logTwo_ten_mem
  have octaves := logTwo_le h1 h2
  have low : 2 ^ 114 ≤ meterLevel m := by
    rw [meterLevel_eq, Nat.le_div_iff_mul_le (by omega)]
    omega
  refine ⟨(Nat.le_log2 (by omega)).mpr low, (Nat.log2_lt (by omega)).mpr ?_⟩
  rw [meterLevel_eq, Nat.div_lt_iff_lt_mul (by omega)]
  omega

theorem magnitudeBits_eq (q k : Nat) : magnitudeBits q k =
    (Nat.log2 q + 1023 - k) * 2 ^ 52 + (roundedSignificand q (Nat.log2 q - 52) - 2 ^ 52) := rfl

/-- The fields of an entry's word: the sign, the exponent, and the significand with its leading bit taken off. -/
theorem meterLut_toNat (h1 : 1 ≤ m) (h2 : m ≤ 65535) : (meterLut m).toNat =
    2 ^ 63 + ((Nat.log2 (meterLevel m) + 1023 - 128) * 2 ^ 52 +
      (roundedSignificand (meterLevel m) (Nat.log2 (meterLevel m) - 52) - 2 ^ 52)) := by
  obtain ⟨lower, upper⟩ := log2_meterLevel_mem h1 h2
  have significand := significand_mem (q := meterLevel m) (by omega)
  have bits : 2 ^ 63 + magnitudeBits (meterLevel m) logBits < 2 ^ 64 := by
    rw [magnitudeBits_eq, show logBits = 128 from rfl]
    omega
  rw [meterLut, if_neg (by omega), BitVec.toNat_ofNat, Nat.mod_eq_of_lt bits, magnitudeBits_eq,
    show logBits = 128 from rfl]

/-- The exact value of an entry: the level rounded to 53 bits, in units of 2^-128 dB, with the sign of a level below
full scale. -/
theorem exactValue_meterLut (h1 : 1 ≤ m) (h2 : m ≤ 65535) :
    exactValue (meterLut m) = some (.finite (-(roundTo53 (meterLevel m) * 2 ^ 946 : Nat))) := by
  obtain ⟨lower, upper⟩ := log2_meterLevel_mem h1 h2
  have shift : Nat.log2 (meterLevel m) + 1023 - 128 - 1 = Nat.log2 (meterLevel m) - 52 + 946 := by omega
  rw [exactValue_of_toNat (by omega) (significand_mem (by omega)) (meterLut_toNat h1 h2), shift, pow_add, ← mul_assoc,
    roundTo53]

end

/-- Settles O19: the level falls as the sample grows, and rounding keeps the order. -/
theorem meterTableIsNegativeAndNeverFalls : Obligations.MeterTableIsNegativeAndNeverFalls := by
  refine ⟨rfl, fun m h1 h2 => ⟨_, exactValue_meterLut h1 h2, ?_⟩, fun m m' h1 h h2 n n' hn hn' => ?_⟩
  · have positive : 0 < roundTo53 (meterLevel m) :=
      lt_of_lt_of_le (by positivity) (roundTo53_mem (by have := log2_meterLevel_mem h1 h2; omega)).1
    have : 0 < roundTo53 (meterLevel m) * 2 ^ 946 := by positivity
    omega
  · rw [exactValue_meterLut h1 (by omega), Option.some.injEq, ExactDb.finite.injEq] at hn
    rw [exactValue_meterLut (by omega) h2, Option.some.injEq, ExactDb.finite.injEq] at hn'
    have bits := log2_meterLevel_mem (h1.trans h) h2
    have := Nat.mul_le_mul_right (2 ^ 946) (roundTo53_mono (by omega) (meterLevel_anti h1 h))
    omega

end Sys2Proof.Machine

/-! ## The error of the meter table (spec/40_codecs.md R110, R112, log 7)

The level is 20·(16 - log2 m) / log2 10 with each of the two logarithms known to 2^-127 and the quotient rounded down.
A sample is at least 2^-16 octaves below full scale, so these errors are small beside the level itself; the rounding
to 53 bits comes on top of them. -/

namespace Sys2Proof.Machine

section

variable {m : Nat}

/-- The distance of a sample from full scale in dB: -f(m) for the meter function f of R110. -/
noncomputable def decibelsBelow (m : Nat) : ℝ := 20 * (16 - Real.logb 2 m) / Real.logb 2 10

theorem meterFunction_eq (h1 : 1 ≤ m) : 20 * Real.logb 10 ((m : ℝ) / 65536) = -decibelsBelow m := by
  have hm : (m : ℝ) ≠ 0 := by exact_mod_cast (show m ≠ 0 by omega)
  have l2 : Real.log 2 ≠ 0 := (Real.log_pos (by norm_num)).ne'
  have l10 : Real.log 10 ≠ 0 := (Real.log_pos (by norm_num)).ne'
  rw [decibelsBelow, Real.logb, Real.logb, Real.logb, Real.log_div hm (by norm_num),
    show (65536 : ℝ) = 2 ^ 16 by norm_num, Real.log_pow]
  field_simp
  push_cast
  ring

/-- `logTwo`, scaled to a real number, is the logarithm to 2^-127. -/
theorem logTwo_near (h1 : 1 ≤ m) (h2 : m < 2 ^ 160) :
    (logTwo m : ℝ) / 2 ^ 128 ≤ Real.logb 2 m ∧ Real.logb 2 m ≤ (logTwo m : ℝ) / 2 ^ 128 + 1 / 2 ^ 127 := by
  obtain ⟨lower, upper⟩ := logTwo_bounds h1 h2
  refine ⟨lower, upper.trans ?_⟩
  rw [add_div, add_assoc]
  gcongr
  norm_num

theorem logb_ten_mem : 3 ≤ Real.logb 2 10 ∧ Real.logb 2 10 ≤ 4 := by
  rw [Real.le_logb_iff_rpow_le (by norm_num) (by norm_num), Real.logb_le_iff_le_rpow (by norm_num) (by norm_num)]
  norm_num

/-- A quotient 20·A / B of which `A` is known from above as `t` and `B` from below as `b`, both to 2^-127, and which is
then rounded down to 128 fraction bits, is right to a part in 2^91. -/
theorem quotient_near {A B t b q : ℝ} (hA : 1 / 2 ^ 16 ≤ A) (hB : 3 ≤ B ∧ B ≤ 4) (ht : A ≤ t ∧ t ≤ A + 1 / 2 ^ 127)
    (hb : b ≤ B ∧ B ≤ b + 1 / 2 ^ 127) (hq : q ≤ 20 * t / b ∧ 20 * t / b ≤ q + 1 / 2 ^ 128) :
    |q - 20 * A / B| ≤ 20 * A / B / 2 ^ 91 := by
  have bpos : 0 < b := by linarith
  have Bpos : 0 < B := by linarith
  have exact_le : 20 * A / B ≤ 20 * t / b := by gcongr <;> linarith
  have large : 1 / 2 ^ 14 ≤ 20 * A / B := by
    rw [le_div_iff₀ Bpos]
    linarith
  have upper : 20 * t / b ≤ 20 * A / B * (1 + 1 / 2 ^ 91) := by
    have product : 20 * A / B * B = 20 * A := div_mul_cancel₀ _ Bpos.ne'
    rw [div_le_iff₀ bpos]
    generalize 20 * A / B = L at *
    nlinarith
  rw [abs_le]
  constructor <;> linarith

theorem cast_div_near (a b : Nat) : ((a / b : Nat) : ℝ) ≤ a / b ∧ (a / b : ℝ) ≤ (a / b : Nat) + 1 := by
  refine ⟨Nat.cast_div_le, ?_⟩
  rw [← Nat.floor_div_eq_div (K := ℝ)]
  exact (Nat.lt_floor_add_one _).le

/-- The level is rounded down from the quotient of the two logarithms. -/
theorem meterLevel_floor (h1 : 1 ≤ m) (h2 : m ≤ 65535) :
    (meterLevel m : ℝ) / 2 ^ 128 ≤ 20 * (16 - logTwo m / 2 ^ 128) / (logTwo 10 / 2 ^ 128) ∧
      20 * (16 - logTwo m / 2 ^ 128) / (logTwo 10 / 2 ^ 128) ≤ (meterLevel m : ℝ) / 2 ^ 128 + 1 / 2 ^ 128 := by
  have dividend : ((20 * (16 * 2 ^ 128 - logTwo m) * 2 ^ 128 : Nat) : ℝ) =
      20 * (16 * 2 ^ 128 - logTwo m) * 2 ^ 128 := by
    rw [Nat.cast_mul, Nat.cast_mul, Nat.cast_sub (by have := logTwo_le h1 h2; omega)]
    norm_num
  have scaled : 20 * (16 - logTwo m / 2 ^ 128 : ℝ) / (logTwo 10 / 2 ^ 128) =
      20 * (16 * 2 ^ 128 - logTwo m) * 2 ^ 128 / logTwo 10 / 2 ^ 128 := by
    generalize (logTwo 10 : ℝ) = b
    field_simp
  have floor := cast_div_near (20 * (16 * 2 ^ 128 - logTwo m) * 2 ^ 128) (logTwo 10)
  rw [← meterLevel_eq, dividend] at floor
  obtain ⟨below, above⟩ := floor
  rw [scaled, ← add_div]
  exact ⟨div_le_div_of_nonneg_right below (by positivity), div_le_div_of_nonneg_right above (by positivity)⟩

/-- The level is the distance from full scale to a part in 2^91. -/
theorem meterLevel_near (h1 : 1 ≤ m) (h2 : m ≤ 65535) :
    |(meterLevel m : ℝ) / 2 ^ 128 - decibelsBelow m| ≤ decibelsBelow m / 2 ^ 91 := by
  obtain ⟨logLower, logUpper⟩ := logTwo_near h1 (by omega)
  have ten := logTwo_near (m := 10) (by decide) (by decide)
  have octaves := logb_le h1 h2
  exact quotient_near (by linarith) logb_ten_mem ⟨by linarith, by linarith⟩ (by exact_mod_cast ten)
    (meterLevel_floor h1 h2)

/-- The level rounded to 53 bits: the two errors together. -/
theorem roundTo53_meterLevel_near (h1 : 1 ≤ m) (h2 : m ≤ 65535) :
    |(roundTo53 (meterLevel m) : ℝ) / 2 ^ 128 - decibelsBelow m| ≤ (1 / 2 ^ 53 + 1 / 2 ^ 90) * decibelsBelow m := by
  have level := abs_le.mp (meterLevel_near h1 h2)
  have rounding := abs_le.mp (roundTo53_near (q := meterLevel m) (by have := log2_meterLevel_mem h1 h2; omega))
  rw [abs_le]
  constructor <;> linarith

end

/-- An entry's value is in units of 2^-1074 dB, its level in units of 2^-128 dB. -/
theorem cast_units (r : Nat) {k n : Nat} (h : n = k + 128) :
    ((-(r * 2 ^ k : Nat) : Int) : ℝ) / 2 ^ n = -(r / 2 ^ 128) := by
  push_cast
  rw [h, pow_add, neg_div, mul_comm, mul_div_mul_left _ _ (by positivity)]

/-- Settles O20: the level is right to a part in 2^91, and its rounding to 53 bits to a part in 2^53. -/
theorem meterTableApproximatesTheLogarithm : Obligations.MeterTableApproximatesTheLogarithm := by
  intro m h1 h2
  refine ⟨_, exactValue_meterLut h1 h2, ?_⟩
  rw [cast_units _ (by rfl), meterFunction_eq h1, ← neg_sub', abs_neg, abs_neg]
  exact (roundTo53_meterLevel_near h1 h2).trans (mul_le_mul_of_nonneg_left (le_abs_self _) (by positivity))

end Sys2Proof.Machine

/-! ## How a set command with its operands in their domains runs (spec/41_topology_encoder.md R129-R146)

Stages 1 and 2 find what the operands name and go on; stages 3 and 4 are one operation, whose end is the same for every
set command: `exec_eq_requestEnd`. So of each command two facts remain, that its checks pass and what its request is. -/

namespace Sys2Proof.Machine

theorem finish_eq_okEnd (r : Result) (s : State) : finish r s = okEnd r s := rfl

theorem raise_eq_errorEnd (e : Status) (s : State) : raise e s = errorEnd (statusCode e) s := by cases e <;> rfl

theorem emit_eq_logged (r : ControlRequest) (s : State) : (emit r s).2 = logged r s := rfl

theorem settle_emit (r : ControlRequest) (s : State) : settle (emit r s) = requestEnd r s := by
  rw [settle_eq, emit_answer, emit_eq_logged, raise_eq_errorEnd, finish_eq_okEnd]
  rfl

theorem requestEnd_status (r : ControlRequest) (s : State) :
    (requestEnd r s).status = 0 ∨ (requestEnd r s).status = 6 := by
  rw [requestEnd]
  split
  · exact .inr rfl
  · exact .inl rfl

/-- A command whose checks pass and leave one set operation commits it, emits its request, and ends by the answer. -/
theorem exec_eq_requestEnd {i : Instr} {op : SetOp} {s : State} (run : exec i s = conductOps [op] s)
    (h : Answered 1 s) : exec i s = .next (requestEnd (requestOf op) (commit op s)) := by
  rw [run, conductOps, List.length_singleton, conduct_answered h, runOps_one, settle_emit]

/-! The checks of each set command pass on the operand bytes of indices, tags and numbers. -/

theorem exec_setimp_run (c : Fin 2) (mode : ImpMode) (s : State) :
    exec (.setimp (byteOf c.val) (byteOf (impModeTag mode))) s = conductOps [.imp c mode] s := by
  simp only [exec, execSetimp, channel?_ofNat, impMode?_tag, require_some]

theorem exec_setclk_run (clock : Clock) (s : State) :
    exec (.setclk (byteOf (clockTag clock))) s = conductOps [.clk clock] s := by
  simp only [exec, execSetclk, clock?_tag, require_some]

theorem exec_setmute_run (k : Fin 5) (m : Bool) (s : State) :
    exec (.setmute (byteOf k.val) (muteByte m)) s = conductOps [.mute k m] s := by
  simp only [exec, execSetmute, outputBus?_ofNat, muteBit?_muteByte, require_some]

theorem exec_setatt_run (k : Fin 5) {d : Dword} {x : ExactDb} (hx : exactValue d = some x) (s : State) :
    exec (.setatt (byteOf k.val) d) s = conductOps [.att k ⟨d, x⟩] s := by
  simp only [exec, execSetatt, outputBus?_ofNat, dbOperand?_of_exactValue hx, require_some]

theorem exec_setsrc_run (i : Fin 18) (src : SignalSource) (s : State) :
    exec (.setsrc (byteOf i.val) (byteOf (sourceTag src))) s = conductOps [.src i src] s := by
  simp only [exec, execSetsrc, matrixInput?_ofNat, source?_tag, require_some]

theorem exec_setgain_run (i : Fin 18) (b : Fin 6) {d : Dword} {x : ExactDb} (hx : exactValue d = some x) (s : State) :
    exec (.setgain (byteOf i.val) (byteOf b.val) d) s = conductOps [.gain i b ⟨d, x⟩] s := by
  simp only [exec, execSetgain, matrixInput?_ofNat, matrixBus?_ofNat, dbOperand?_of_exactValue hx, require_some]

theorem exec_setroute_run (d : Fin 6) (bus : MixBus) (s : State) :
    exec (.setroute (byteOf d.val) (byteOf (busTag bus))) s = conductOps [.route d bus] s := by
  simp only [exec, execSetroute, destination?_ofNat, mixBus?_tag, require_some]

/-! What each set command writes and emits. -/

/-- Settles O24: the request is that of the set operation, its address in the fields of R79. -/
theorem setimpWritesTheSwitchAndEmits : Obligations.SetimpWritesTheSwitchAndEmits := by
  intro s c mode h
  rw [impValue, ← requestOf_imp]
  exact exec_eq_requestEnd (exec_setimp_run c mode s) h

/-- Settles O25: the request is that of the set operation. -/
theorem setclkWritesTheClockAndEmits : Obligations.SetclkWritesTheClockAndEmits := fun s clock h =>
  exec_eq_requestEnd (exec_setclk_run clock s) h

/-- Settles O26: the mute bit is its operand byte and its payload byte. -/
theorem setmuteWritesTheMuteBitAndEmits : Obligations.SetmuteWritesTheMuteBitAndEmits := by
  intro s k m h
  rw [← muteByte, muteValue, ← requestOf_mute]
  exact exec_eq_requestEnd (exec_setmute_run k m s) h

/-- Settles O27: the operation stores the bits of the operand and sends the payload of its value. -/
theorem setattStoresAsGivenAndEmits : Obligations.SetattStoresAsGivenAndEmits := by
  intro s k d x hx h
  have request := requestOf_att k ⟨d, x⟩
  rw [← attValue] at request
  rw [← pairPayload, ← request]
  exact exec_eq_requestEnd (exec_setatt_run k hx s) h

/-- Settles O28: the request is that of the set operation, its address in the fields of R79. -/
theorem setsrcWritesTheSourceAndEmits : Obligations.SetsrcWritesTheSourceAndEmits := by
  intro s i src h
  rw [srcValue, ← requestOf_src]
  exact exec_eq_requestEnd (exec_setsrc_run i src s) h

/-- The request of a gain cell, by the formula of R143. -/
theorem requestOf_gain_ofNat (i : Fin 18) (b : Fin 6) (d : DbOperand) : requestOf (.gain i b d) =
    .out Config.setRequestCode (BitVec.ofNat 16 (0x0100 + 8 * i.val + b.val)) 0x3c00
      (pairPayload (gainToWire d.value)) := by
  rw [requestOf_gain, gainValue]

/-- Settles O29: the operation stores the bits of the operand and sends the payload of its value. -/
theorem setgainStoresAsGivenAndEmits : Obligations.SetgainStoresAsGivenAndEmits := by
  intro s i b d x hx h
  rw [← pairPayload, ← requestOf_gain_ofNat i b ⟨d, x⟩]
  exact exec_eq_requestEnd (exec_setgain_run i b hx s) h

/-- Settles O30: the bus byte is the code of a source or of a matrix output. -/
theorem setrouteWritesTheSourceAndEmits : Obligations.SetrouteWritesTheSourceAndEmits := by
  intro s d bus h
  have run := exec_eq_requestEnd (exec_setroute_run d bus s) h
  cases bus <;> exact run

/-- Settles O31: SAVE commits nothing, and its one request ends it. -/
theorem saveEmitsTheSaveRequest : Obligations.SaveEmitsTheSaveRequest := by
  intro s h
  rw [exec, execSave, conduct_answered h, settle_emit]
  rfl

/-! ## The gain addresses (spec/41_topology_encoder.md R143) -/

theorem gainAddress_toNat (i : Fin 18) (b : Fin 6) :
    (BitVec.ofNat 16 (0x0100 + 8 * i.val + b.val)).toNat = 0x0100 + 8 * i.val + b.val := by
  rw [BitVec.toNat_ofNat]
  omega

/-- The bus is the remainder of the address by 8 and the input is its quotient, so an address has one cell. -/
theorem gainAddress_injective {i j : Fin 18} {b c : Fin 6}
    (h : 0x0100 + 8 * i.val + b.val = 0x0100 + 8 * j.val + c.val) : i = j ∧ b = c := by
  omega

/-- Settles O14: the address of a cell as a number. -/
theorem gainAddressesAreDistinct : Obligations.GainAddressesAreDistinct := by
  intro i b d
  have mask : BitVec.ofNat 16 b.val &&& 0x07#16 = BitVec.ofNat 16 b.val := by revert b; decide
  have address := gainAddress_toNat i b
  refine ⟨mask, ⟨_, _, requestOf_gain_ofNat i b d, address, by omega, by omega⟩, ?_⟩
  intro j c e value p q hi hj
  rw [requestOf_gain_ofNat] at hi hj
  injection hi with _ hi
  injection hj with _ hj
  apply gainAddress_injective
  rw [← address, ← gainAddress_toNat j c, hi, hj]

/-! ## What SETROUTE leaves in the router (spec/41_topology_encoder.md R145) -/

theorem exec_setroute_route (d : Fin 6) (bus : MixBus) (s : State) :
    Ensures (fun t => t.route = s.route.set d bus) (exec (.setroute (byteOf d.val) (byteOf (busTag bus))) s) := by
  rw [exec_setroute_run]
  exact (conductOps_one_sameShadow _ s).mono fun _ shadow => shadow.route

/-- Overwriting an entry with `x` keeps an entry that is `x`, whichever the two are. -/
theorem get_set_of_get_eq {α : Type} {n : Nat} {v : Vector α n} {x : α} {j : Fin n} (h : v.get j = x) (i : Fin n) :
    (v.set i x).get j = x := by
  rw [Vector.get_eq_getElem, Vector.getElem_set]
  split
  · rfl
  · exact h

/-- Settles O41: SETROUTE writes its destination alone, and looks at no other. -/
theorem routerHoldsTheLastSource : Obligations.RouterHoldsTheLastSource := by
  intro d x y s t u
  refine ⟨fun _ _ second _ => ?_, fun e he h => ?_⟩
  · rw [exec_setroute_route d y t u second, Vector.get_eq_getElem, Vector.getElem_set_self]
  · have run := exec_eq_requestEnd (exec_setroute_run d x s) h
    have route := exec_setroute_route d x s _ run
    refine ⟨_, run, requestEnd_status _ _, ?_, ?_⟩ <;> rw [route]
    · rw [Vector.get_eq_getElem, Vector.getElem_set_self]
    · exact get_set_of_get_eq he d

/-! ## GET (spec/41_topology_encoder.md R150)

GET MGAIN and GET ATT are above (`exec_getMgain`, `exec_getAtt`). -/

theorem exec_getMsrc (i : Fin 18) (s : State) :
    exec (.getMsrc (byteOf i.val)) s = .next (okEnd (tagResult (sourceTag (s.msrc.get i))) s) := by
  simp only [exec, execGetMsrc, matrixInput?_ofNat, require_some, finish_eq_okEnd]

theorem exec_getRoute (d : Fin 6) (s : State) :
    exec (.getRoute (byteOf d.val)) s = .next (okEnd (tagResult (busTag (s.route.get d))) s) := by
  simp only [exec, execGetRoute, destination?_ofNat, require_some, finish_eq_okEnd]

theorem exec_getMute (k : Fin 5) (s : State) :
    exec (.getMute (byteOf k.val)) s = .next (okEnd (tagResult (s.mute.get k).toNat) s) := by
  simp only [exec, execGetMute, outputBus?_ofNat, require_some, finish_eq_okEnd]

theorem exec_getImp {s : State} {c : Fin 2} {mode : ImpMode} (h : s.imp.get c = some mode) :
    exec (.getImp (byteOf c.val)) s = .next (okEnd (tagResult (impModeTag mode)) s) := by
  simp only [exec, execGetImp, channel?_ofNat, h, require_some, finish_eq_okEnd]

theorem exec_getClk {s : State} {clock : Clock} (h : s.clk = some clock) :
    exec .getClk s = .next (okEnd (tagResult (clockTag clock)) s) := by
  simp only [exec, execGetClk, h, require_some, finish_eq_okEnd]

theorem tagResult_toNat (m : Bool) : tagResult m.toNat = .word (if m then 1 else 0) := by cases m <;> rfl

/-- Settles O39: one selector after the other, a mute bit by its number. -/
theorem getAnswersTheStoredValue : Obligations.GetAnswersTheStoredValue := by
  intro s
  refine ⟨fun i => exec_getMsrc i s, fun i b => exec_getMgain i b s, fun d => exec_getRoute d s, fun k => ?_,
    fun k => exec_getAtt k s, fun c mode => exec_getImp, fun clock => exec_getClk⟩
  rw [exec_getMute, tagResult_toNat]

end Sys2Proof.Machine

/-! ## The programs of FACTORY and ZERO (spec/42_bulk_programs.md R172, R176, R178)

Each program is a few runs of set commands, one after the other. Where a command stands is found from the lengths of
the runs before its own; in the run of the gains, from its row and its place in the row. -/

namespace Sys2Proof.Machine

section

variable {α : Type} {l r : List α} {n k : Nat} {x : α}

theorem getElem?_append_of_left (h : l[k]? = some x) : (l ++ r)[k]? = some x := by
  obtain ⟨hk, -⟩ := List.getElem?_eq_some_iff.mp h
  rwa [List.getElem?_append_left hk]

theorem getElem?_append_of_right (hl : l.length = n) (h : r[k]? = some x) : (l ++ r)[n + k]? = some x := by
  rwa [List.getElem?_append_right (by omega), hl, Nat.add_sub_cancel_left]

/-- In rows of one length, an entry is found by its row and its place in the row. -/
theorem getElem?_flatMap_of_length {β : Type} {f : β → List α} (hf : ∀ b, (f b).length = n) (rows : List β)
    (i : Nat) (hk : k < n) : (rows.flatMap f)[n * i + k]? = rows[i]?.bind fun b => (f b)[k]? := by
  induction rows generalizing i with
  | nil => simp
  | cons b rows ih =>
    rw [List.flatMap_cons]
    cases i with
    | zero => rw [List.getElem?_append_left (by rw [hf]; omega), Nat.mul_zero, Nat.zero_add]; rfl
    | succ i =>
      have later : n * (i + 1) + k - (f b).length = n * i + k := by rw [hf, Nat.mul_succ]; omega
      rw [List.getElem?_append_right (by rw [hf, Nat.mul_succ]; omega), later, ih]
      rfl

end

theorem map_indices_length {α : Type} {n : Nat} (f : Fin n → α) : ((indices n).map f).length = n := by
  simp [indices]

theorem map_indices_getElem? {α : Type} {n : Nat} (f : Fin n → α) (i : Fin n) :
    ((indices n).map f)[i.val]? = some (f i) := by
  simp [indices]

theorem gainOps_length (gain : Fin 18 → Fin 6 → DbOperand) : (gainOps gain).length = 108 := by
  simp [gainOps, indices, List.length_flatMap]

/-- The gains are input-major. -/
theorem gainOps_getElem? (gain : Fin 18 → Fin 6 → DbOperand) (i : Fin 18) (b : Fin 6) :
    (gainOps gain)[6 * i.val + b.val]? = some (.gain i b (gain i b)) := by
  have row : (indices 18)[i.val]? = some i := by simp [indices]
  rw [gainOps, getElem?_flatMap_of_length (fun _ => map_indices_length _) _ _ b.isLt, row, Option.bind_some,
    map_indices_getElem?]

/-- The unmutes begin with bus 1. -/
theorem unmuteOps_getElem? {k : Fin 5} (hk : 1 ≤ k.val) : unmuteOps[k.val - 1]? = some (.mute k false) := by
  revert k
  decide

/-! Where the commands of FACTORY stand. -/

theorem factoryOps_take_six : factoryOps.take 6 =
    [.route 0 (.mix .m1), .route 1 (.mix .m2), .route 2 (.mix .m1), .route 3 (.mix .m2), .route 4 (.source .off),
      .route 5 (.source .off)] := by
  simp only [factoryOps, List.append_assoc]
  rw [List.take_left' (map_indices_length _)]
  rfl

theorem factoryOps_src (i : Fin 18) : factoryOps[6 + i.val]? = some (.src i (factorySource.getD i .off)) :=
  getElem?_append_of_left (getElem?_append_of_left (getElem?_append_of_left
    (getElem?_append_of_right (map_indices_length _) (map_indices_getElem? _ i))))

theorem factoryOps_gain (i : Fin 18) (b : Fin 6) :
    factoryOps[24 + (6 * i.val + b.val)]? = some (.gain i b (factoryGain i b)) :=
  getElem?_append_of_left (getElem?_append_of_left
    (getElem?_append_of_right (by simp [indices]) (gainOps_getElem? factoryGain i b)))

theorem factoryOps_mute {k : Fin 5} (hk : 1 ≤ k.val) : factoryOps[132 + (k.val - 1)]? = some (.mute k false) :=
  getElem?_append_of_left (getElem?_append_of_right (by simp [indices, gainOps_length]) (unmuteOps_getElem? hk))

theorem factoryOps_imp (c : Fin 2) : factoryOps[136 + c.val]? = some (.imp c .lineIn) :=
  getElem?_append_of_right (by simp [indices, gainOps_length, unmuteOps]) (map_indices_getElem? _ c)

/-! Where the commands of ZERO stand. -/

theorem zeroOps_gain (i : Fin 18) (b : Fin 6) : zeroOps[6 * i.val + b.val]? = some (.gain i b floorDb) :=
  getElem?_append_of_left (getElem?_append_of_left (getElem?_append_of_left (gainOps_getElem? _ i b)))

theorem zeroOps_src (i : Fin 18) : zeroOps[108 + i.val]? = some (.src i .off) :=
  getElem?_append_of_left (getElem?_append_of_left
    (getElem?_append_of_right (gainOps_length _) (map_indices_getElem? _ i)))

theorem zeroOps_route (d : Fin 6) : zeroOps[126 + d.val]? = some (.route d (.source .off)) :=
  getElem?_append_of_left (getElem?_append_of_right (by simp [indices, gainOps_length]) (map_indices_getElem? _ d))

theorem zeroOps_mute {k : Fin 5} (hk : 1 ≤ k.val) : zeroOps[132 + (k.val - 1)]? = some (.mute k false) :=
  getElem?_append_of_right (by simp [indices, gainOps_length]) (unmuteOps_getElem? hk)

/-! The constants of the programs. -/

/-- FSRC by input (R172). -/
theorem factorySource_eq (i : Fin 18) : factorySource.getD i .off =
    (#v[.analog1, .analog2, .analog3, .analog4, .analog5, .analog6, .analog7, .analog8, .adat1, .adat2, .adat3, .adat4,
      .adat5, .adat6, .spdif1, .spdif2, .daw1, .daw2] : Vector SignalSource 18).get i := by
  revert i
  decide

theorem dbOperand?_unity : dbOperand? 0x0000000000000000 = some unityDb := by decide +kernel

theorem dbOperand?_floor : dbOperand? 0xC069000000000000 = some floorDb := by decide +kernel

/-- Settles O46: each command by its run and its place in it. -/
theorem bulkProgramsListTheirSubcommands : Obligations.BulkProgramsListTheirSubcommands := by
  have unmutes {k : Fin 5} (hk : 1 ≤ k.val) : 131 + k.val = 132 + (k.val - 1) := by omega
  refine ⟨factoryOps_length, zeroOps_length, fun i b => ⟨?_, zeroOps_gain i b, zeroOps_src i⟩, zeroOps_route,
    fun k hk => ?_, factoryOps_imp, factoryOps_take_six, fun i => ?_, dbOperand?_unity, dbOperand?_floor⟩
  · rw [Nat.add_assoc, factoryOps_gain]
    rfl
  · rw [unmutes hk]
    exact ⟨factoryOps_mute hk, zeroOps_mute hk⟩
  · rw [factoryOps_src, factorySource_eq]

end Sys2Proof.Machine

/-! ## What a program of set commands leaves in the shadow registers (spec/42_bulk_programs.md R173, R177)

An entry of a shadow register is written by one set command for each value it can get, and by no other. So after a
program whose commands on it all give it one value the entry holds that value, wherever they stand in the program; and
after a program without a command on it the entry is as it was. -/

namespace Sys2Proof.Machine

/-- The shadow writes of a program. -/
def commitAll (ops : List SetOp) (s : State) : State := ops.foldl (fun u op => commit op u) s

theorem commitAll_cons (op : SetOp) (rest : List SetOp) (s : State) :
    commitAll (op :: rest) s = commitAll rest (commit op s) := rfl

/-- The entry that `read` shows is written by the set commands `write x` alone, and each stores `stored x` in it. -/
structure Entry {α β : Type} (read : State → β) (write : α → SetOp) (stored : α → β) : Prop where
  written : ∀ x s, read (commit (write x) s) = stored x
  owned : ∀ op s, (∃ x, op = write x) ∨ read (commit op s) = read s

section

variable {α β : Type} {read : State → β} {write : α → SetOp} {stored : α → β} {ops : List SetOp}

theorem Entry.commitAll_kept (h : Entry read write stored) (unwritten : ∀ x, write x ∉ ops) (s : State) :
    read (commitAll ops s) = read s := by
  induction ops generalizing s with
  | nil => rfl
  | cons op rest ih =>
    have later := ih fun x hx => unwritten x (List.mem_cons_of_mem _ hx)
    rw [commitAll_cons, later]
    rcases h.owned op s with ⟨x, rfl⟩ | kept
    · exact absurd List.mem_cons_self (unwritten x)
    · exact kept

/-- The program may also begin where the entry already holds the value: so the induction goes on after the write. -/
theorem Entry.commitAll_written {x : α} (h : Entry read write stored) (only : ∀ y, write y ∈ ops → y = x) {s : State}
    (holds : read s = stored x ∨ write x ∈ ops) : read (commitAll ops s) = stored x := by
  induction ops generalizing s with
  | nil => exact holds.resolve_right List.not_mem_nil
  | cons op rest ih =>
    refine ih (fun y hy => only y (List.mem_cons_of_mem _ hy)) ?_
    rcases h.owned op s with ⟨y, rfl⟩ | kept
    · rw [only y List.mem_cons_self, h.written]
      exact .inl rfl
    · rw [kept]
      rcases holds with holds | hmem
      · exact .inl holds
      · rcases List.mem_cons.mp hmem with rfl | later
        · exact .inl (kept ▸ h.written x s)
        · exact .inr later

end

/-! The entries of the shadow registers. -/

section

variable {α : Type} {n : Nat}

theorem get_set_self (v : Vector α n) (i : Fin n) (x : α) : (v.set i x).get i = x := by
  rw [Vector.get_eq_getElem, Vector.getElem_set_self]

theorem get_set_of_ne (v : Vector α n) {i j : Fin n} (h : i ≠ j) (x : α) : (v.set i x).get j = v.get j := by
  rw [Vector.get_eq_getElem, Vector.getElem_set_ne _ _ (Fin.val_ne_of_ne h), Vector.get_eq_getElem]

theorem eq_of_get_eq {v w : Vector α n} (h : ∀ i : Fin n, v.get i = w.get i) : v = w :=
  Vector.ext fun i hi => h ⟨i, hi⟩

end

/-- An entry of a register that is a vector, each of its set commands overwriting the entry of its index. -/
theorem Entry.of_vector {α β : Type} {n : Nat} {reg : State → Vector β n} {write : Fin n → α → SetOp} {stored : α → β}
    (written : ∀ i x s, reg (commit (write i x) s) = (reg s).set i (stored x))
    (owned : ∀ op s, (∃ i x, op = write i x) ∨ reg (commit op s) = reg s) (i : Fin n) :
    Entry (fun s => (reg s).get i) (write i) stored where
  written x s := by rw [written, get_set_self]
  owned op s := by
    rcases owned op s with ⟨j, x, rfl⟩ | kept
    · by_cases hj : j = i
      · exact .inl ⟨x, by rw [hj]⟩
      · exact .inr (by rw [written, get_set_of_ne _ hj])
    · exact .inr (by rw [kept])

theorem route_entry (d : Fin 6) : Entry (fun s => s.route.get d) (.route d) id :=
  .of_vector (fun _ _ _ => rfl) (fun op _ => by
    cases op
    case route d x => exact .inl ⟨d, x, rfl⟩
    all_goals exact .inr rfl) d

theorem msrc_entry (i : Fin 18) : Entry (fun s => s.msrc.get i) (.src i) id :=
  .of_vector (fun _ _ _ => rfl) (fun op _ => by
    cases op
    case src i x => exact .inl ⟨i, x, rfl⟩
    all_goals exact .inr rfl) i

theorem mute_entry (k : Fin 5) : Entry (fun s => s.mute.get k) (.mute k) id :=
  .of_vector (fun _ _ _ => rfl) (fun op _ => by
    cases op
    case mute k x => exact .inl ⟨k, x, rfl⟩
    all_goals exact .inr rfl) k

theorem att_entry (k : Fin 5) : Entry (fun s => s.att.get k) (.att k) DbOperand.bits :=
  .of_vector (fun _ _ _ => rfl) (fun op _ => by
    cases op
    case att k x => exact .inl ⟨k, x, rfl⟩
    all_goals exact .inr rfl) k

theorem imp_entry (c : Fin 2) : Entry (fun s => s.imp.get c) (.imp c) some :=
  .of_vector (fun _ _ _ => rfl) (fun op _ => by
    cases op
    case imp c x => exact .inl ⟨c, x, rfl⟩
    all_goals exact .inr rfl) c

theorem clk_entry : Entry State.clk .clk some where
  written _ _ := rfl
  owned op _ := by
    cases op
    case clk x => exact .inl ⟨x, rfl⟩
    all_goals exact .inr rfl

/-- The gains are a vector of rows: a cell is left by the set commands of another row, and of another place in its
row. -/
theorem mgain_entry (i : Fin 18) (b : Fin 6) : Entry (fun s => (s.mgain.get i).get b) (.gain i b) DbOperand.bits where
  written x s := by rw [commit_gain_mgain, get_set_self, get_set_self]
  owned op s := by
    cases op
    case gain j c x =>
      by_cases hi : j = i
      · subst hi
        by_cases hb : c = b
        · exact .inl ⟨x, by rw [hb]⟩
        · exact .inr (by rw [commit_gain_mgain, get_set_self, get_set_of_ne _ hb])
      · exact .inr (by rw [commit_gain_mgain, get_set_of_ne _ hi])
    all_goals exact .inr rfl

end Sys2Proof.Machine

/-! ## The topologies of FACTORY and ZERO (spec/42_bulk_programs.md R173, R177) -/

namespace Sys2Proof.Machine

/-- What a bulk program gives the router, the matrix and the impedance switches (`none` where it leaves the switches
alone). Both programs also unmute the buses 1 to 4. -/
structure BulkTable where
  route : Fin 6 → MixBus
  source : Fin 18 → SignalSource
  gain : Fin 18 → Fin 6 → DbOperand
  imp : Option ImpMode

/-- The set commands that bring the table about. -/
def BulkTable.Lists (table : BulkTable) : SetOp → Prop
  | .route d bus => bus = table.route d
  | .src i source => source = table.source i
  | .gain i b d => d = table.gain i b
  | .mute k m => k ≠ 0 ∧ m = false
  | .imp _ mode => table.imp = some mode
  | .att _ _ | .clk _ => False

/-- The table of R173. -/
def factoryTable : BulkTable where
  route d := factoryRoute.getD d (.source .off)
  source i := factorySource.getD i .off
  gain := factoryGain
  imp := some .lineIn

/-- The table of R177. -/
def zeroTable : BulkTable where
  route _ := .source .off
  source _ := .off
  gain _ _ := floorDb
  imp := none

theorem mem_gainOps {gain : Fin 18 → Fin 6 → DbOperand} {op : SetOp} :
    op ∈ gainOps gain ↔ ∃ i b, .gain i b (gain i b) = op := by
  simp [gainOps, indices]

theorem mem_unmuteOps {op : SetOp} : op ∈ unmuteOps ↔ ∃ k : Fin 5, k ≠ 0 ∧ .mute k false = op := by
  simp [unmuteOps, Fin.exists_fin_succ, eq_comm]

theorem mem_map_indices {n : Nat} {f : Fin n → SetOp} {op : SetOp} :
    op ∈ (indices n).map f ↔ ∃ i, f i = op := by
  simp [indices]

/-- FACTORY has the set commands of its table and no others. -/
theorem mem_factoryOps (op : SetOp) : op ∈ factoryOps ↔ factoryTable.Lists op := by
  simp only [factoryOps, List.mem_append, mem_map_indices, mem_gainOps, mem_unmuteOps]
  cases op <;> simp [BulkTable.Lists, factoryTable, eq_comm]

/-- ZERO has the set commands of its table and no others. -/
theorem mem_zeroOps (op : SetOp) : op ∈ zeroOps ↔ zeroTable.Lists op := by
  simp only [zeroOps, List.mem_append, mem_map_indices, mem_gainOps, mem_unmuteOps]
  cases op <;> simp [BulkTable.Lists, zeroTable, eq_comm]

/-- `t` holds the table, and what the table does not name is as in `s`. -/
structure BulkTable.Left (table : BulkTable) (s t : State) : Prop where
  route : ∀ d, t.route.get d = table.route d
  source : ∀ i, t.msrc.get i = table.source i
  gain : ∀ i b, (t.mgain.get i).get b = (table.gain i b).bits
  mute : ∀ k : Fin 5, t.mute.get k = if k = 0 then s.mute.get 0 else false
  imp : ∀ c, t.imp.get c = table.imp.or (s.imp.get c)
  att : t.att = s.att
  clk : t.clk = s.clk

theorem BulkTable.left_commitAll {table : BulkTable} {ops : List SetOp} (h : ∀ op, op ∈ ops ↔ table.Lists op)
    (s : State) : table.Left s (commitAll ops s) where
  route d := (route_entry d).commitAll_written (fun _ hy => (h _).mp hy) (.inr ((h _).mpr rfl))
  source i := (msrc_entry i).commitAll_written (fun _ hy => (h _).mp hy) (.inr ((h _).mpr rfl))
  gain i b := (mgain_entry i b).commitAll_written (fun _ hy => (h _).mp hy) (.inr ((h _).mpr rfl))
  mute k := by
    split
    next hk =>
      subst hk
      exact (mute_entry 0).commitAll_kept (fun _ hy => ((h _).mp hy).1 rfl) s
    next hk => exact (mute_entry k).commitAll_written (fun _ hy => ((h _).mp hy).2) (.inr ((h _).mpr ⟨hk, rfl⟩))
  imp c := by
    cases himp : table.imp with
    | none => exact (imp_entry c).commitAll_kept (fun _ hy => by simp [h, BulkTable.Lists, himp] at hy) s
    | some mode =>
      exact (imp_entry c).commitAll_written (x := mode)
        (fun _ hy => by simpa [BulkTable.Lists, himp, eq_comm] using (h _).mp hy) (.inr ((h _).mpr himp))
  att := eq_of_get_eq fun k => (att_entry k).commitAll_kept (fun _ hy => (h _).mp hy) s
  clk := clk_entry.commitAll_kept (fun _ hy => (h _).mp hy) s

/-- The table holds in every state with the same shadow registers. -/
theorem BulkTable.Left.of_sameShadow {table : BulkTable} {s t u : State} (h : table.Left s t) (same : SameShadow t u) :
    table.Left s u where
  route := same.route ▸ h.route
  source := same.msrc ▸ h.source
  gain := same.mgain ▸ h.gain
  mute := same.mute ▸ h.mute
  imp := same.imp ▸ h.imp
  att := same.att.trans h.att
  clk := same.clk.trans h.clk

end Sys2Proof.Machine

/-! ## How a bulk command runs (spec/42_bulk_programs.md R171) -/

namespace Sys2Proof.Machine

/-- A program of set commands went from `s` to `t`, and `new` are its requests with their answers: it ran its first
`new.length` commands, up to the first that met TransportError or to its end. -/
structure BulkRun (ops : List SetOp) (s t : State) (new : List Exchange) : Prop where
  trace : t.trace = s.trace ++ new
  length_le : new.length ≤ ops.length
  requests : new.map Exchange.request = (ops.take new.length).map requestOf
  shadow : SameShadow (commitAll (ops.take new.length) s) t
  replies : t.replies = s.replies.drop new.length
  listed : ∀ k < new.length, ∀ a e, s.replies[k]? = some (.answer a) → new[k]? = some e → a = e.answer
  earlier : ∀ e ∈ new.dropLast, e.answer.isError = false
  ending : if new.any fun e => e.answer.isError then t.status = 6 ∧ t.errseen = s.errseen ||| 0x40
    else new.length = ops.length ∧ t.status = 0 ∧ t.errseen = s.errseen

/-- A program goes on after a success alone, and its STATUS says whether a request failed. -/
theorem runOps_answers (ops : List SetOp) (s : State) :
    ∃ new : List Exchange, (runOps ops s).trace = s.trace ++ new ∧
      (∀ e ∈ new.dropLast, e.answer.isError = false) ∧
      (runOps ops s).status = if new.any fun e => e.answer.isError then 6 else 0 := by
  induction ops generalizing s with
  | nil => exact ⟨[], (List.append_nil _).symm, nofun, rfl⟩
  | cons op rest ih =>
    rw [runOps_cons]
    split
    next failure =>
      refine ⟨[⟨requestOf op, answerTo (requestOf op) s⟩], by simp, nofun, ?_⟩
      rw [List.any_cons, failure, Bool.true_or, if_pos rfl]
      rfl
    next success =>
      obtain ⟨new, trace, earlier, status⟩ := ih (emit (requestOf op) (commit op s)).2
      refine ⟨⟨requestOf op, answerTo (requestOf op) s⟩ :: new, by simp [trace], fun e he => ?_, ?_⟩
      · cases new with
        | nil => cases he
        | cons e' new =>
          rcases List.mem_cons.mp he with rfl | he
          · exact Bool.eq_false_iff.mpr success
          · exact earlier e he
      · rw [status, List.any_cons, Bool.eq_false_iff.mpr success, Bool.false_or]

/-- What a program does (`runOps_run`, `runOps_frame`), and why it ends. -/
theorem exists_bulkRun (ops : List SetOp) (s : State) : ∃ new, BulkRun ops s (runOps ops s) new := by
  obtain ⟨_, length_le, new, trace, rfl, replies, listed, requests, shadow, -, whole, -⟩ := runOps_run ops s
  obtain ⟨new', trace', earlier, status⟩ := runOps_answers ops s
  obtain rfl : new' = new := List.append_cancel_left (trace'.symm.trans trace)
  refine ⟨new', trace, length_le, requests, shadow, replies, listed, earlier, ?_⟩
  obtain ⟨-, -, -, ends⟩ := runOps_frame ops s
  by_cases failed : (new'.any fun e => e.answer.isError) = true
  · rw [if_pos failed] at status ⊢
    rcases ends with ⟨ok, -⟩ | ⟨-, errseen⟩
    · cases ok.symm.trans status
    · exact ⟨status, errseen⟩
  · rw [if_neg failed] at status ⊢
    rcases ends with ⟨-, errseen⟩ | ⟨error, -⟩
    · exact ⟨whole status, status, errseen⟩
    · cases error.symm.trans status

section

variable {ops : List SetOp} {s t : State} {new : List Exchange}

theorem BulkRun.length_pos (h : BulkRun ops s t new) (nonempty : 1 ≤ ops.length) : 1 ≤ new.length := by
  have ending := h.ending
  cases new with
  | nil => exact nonempty.trans_eq ending.1.symm
  | cons => simp

/-- A program that ends with OK ran to its end. -/
theorem BulkRun.whole (h : BulkRun ops s t new) (ok : t.status = 0) :
    new.length = ops.length ∧ t.errseen = s.errseen := by
  have ending := h.ending
  split at ending
  · obtain ⟨error, -⟩ := ending
    cases ok.symm.trans error
  · obtain ⟨length, -, errseen⟩ := ending
    exact ⟨length, errseen⟩

/-- A program whose requests all succeed ends with OK. -/
theorem BulkRun.ok (h : BulkRun ops s t new) (succeed : AllSucceed ops.length s) : t.status = 0 := by
  have none_failed : ¬ (new.any fun e => e.answer.isError) = true := by
    rw [List.any_eq_true]
    rintro ⟨e, he, failed⟩
    obtain ⟨k, hk, rfl⟩ := List.mem_iff_getElem.mp he
    obtain ⟨bytes, reply⟩ := succeed k (hk.trans_le h.length_le)
    rw [← h.listed k hk _ _ reply (List.getElem?_eq_getElem hk)] at failed
    cases failed
  have ending := h.ending
  rw [if_neg none_failed] at ending
  obtain ⟨-, ok, -⟩ := ending
  exact ok

theorem AllSucceed.answered {n : Nat} (h : AllSucceed n s) : Answered n s := by
  rw [Answered, Option.eq_none_iff_forall_ne_some]
  intro stop hs
  obtain ⟨k, hk, -, reply⟩ := stopsWithin_some hs
  obtain ⟨bytes, success⟩ := h k hk
  rw [success] at reply
  cases stop <;> cases reply

theorem conductOps_ok (succeed : AllSucceed ops.length s) : ∃ t, conductOps ops s = .next t ∧ t.status = 0 := by
  obtain ⟨new, run⟩ := exists_bulkRun ops s
  exact ⟨_, conduct_answered succeed.answered, run.ok succeed⟩

/-- All that a program which ended with OK leaves: the whole program's shadow writes and requests, and no error. -/
structure BulkDone (ops : List SetOp) (s t : State) : Prop where
  shadow : SameShadow (commitAll ops s) t
  errseen : t.errseen = s.errseen
  result : t.result = .empty
  replies : t.replies = s.replies.drop ops.length
  events : t.events = s.events
  order : t.order = s.order
  requests : t.trace.map Exchange.request = s.trace.map Exchange.request ++ ops.map requestOf

theorem conductOps_done (ht : conductOps ops s = .next t) (ok : t.status = 0) : BulkDone ops s t := by
  obtain ⟨-, rfl⟩ := conduct_next ht
  obtain ⟨events, order, result, -⟩ := runOps_frame ops s
  obtain ⟨new, run⟩ := exists_bulkRun ops s
  obtain ⟨length, errseen⟩ := run.whole ok
  have shadow := run.shadow
  have requests := run.requests
  have replies := run.replies
  rw [length, List.take_length] at shadow requests
  rw [length] at replies
  refine ⟨shadow, errseen, result, replies, events, order, ?_⟩
  rw [run.trace, List.map_append, requests]

end

/-! The two bulk commands. -/

theorem exec_factory (s : State) : exec .factory s = conductOps factoryOps s := rfl

theorem exec_zero (s : State) : exec .zero s = conductOps zeroOps s := rfl

/-- FROUTE by destination (R172). -/
theorem factoryRoute_eq (d : Fin 6) : factoryRoute.getD d (.source .off) =
    (#v[.mix .m1, .mix .m2, .mix .m1, .mix .m2, .source .off, .source .off] : Vector MixBus 6).get d := by
  revert d
  decide

theorem factoryGain_bits (i : Fin 18) (b : Fin 6) :
    (factoryGain i b).bits = if i.val % 2 = b.val then 0x0000000000000000 else 0xC069000000000000 := by
  unfold factoryGain
  split <;> rfl

/-- Settles O43: a program that ended with OK made all its shadow writes, and they are the table's. -/
theorem factoryEndsInTheFactoryTopology : Obligations.FactoryEndsInTheFactoryTopology := by
  intro s
  rw [exec_factory, ← factoryOps_length]
  refine ⟨conductOps_ok, fun t ht ok => ?_⟩
  obtain ⟨shadow, errseen, result, replies, events, order, requests⟩ := conductOps_done ht ok
  obtain ⟨route, source, gain, mute, imp, att, clk⟩ :=
    (BulkTable.left_commitAll mem_factoryOps s).of_sameShadow shadow
  refine ⟨eq_of_get_eq fun d => ?_, eq_of_get_eq fun i => ?_, fun i b => ?_, mute, imp, att, clk, errseen, result,
    replies, events, order, requests⟩
  · exact (route d).trans (factoryRoute_eq d)
  · exact (source i).trans (factorySource_eq i)
  · exact (gain i b).trans (factoryGain_bits i b)

/-- Settles O44: a program that ended with OK made all its shadow writes, and they are the table's. -/
theorem zeroEndsSilentAndDisconnected : Obligations.ZeroEndsSilentAndDisconnected := by
  intro s
  rw [exec_zero, ← zeroOps_length]
  refine ⟨conductOps_ok, fun t ht ok => ?_⟩
  obtain ⟨shadow, errseen, result, replies, events, order, requests⟩ := conductOps_done ht ok
  obtain ⟨route, source, gain, mute, imp, att, clk⟩ :=
    (BulkTable.left_commitAll mem_zeroOps s).of_sameShadow shadow
  exact ⟨gain, source, route, mute, att, eq_of_get_eq imp, clk, errseen, result, replies, events, order, requests⟩

theorem exec_bulk {i : Instr} {ops : List SetOp} (h : (i, ops) ∈ [(Instr.factory, factoryOps), (Instr.zero, zeroOps)])
    (s : State) : exec i s = conductOps ops s ∧ 1 ≤ ops.length := by
  simp only [List.mem_cons, Prod.mk.injEq, List.not_mem_nil, or_false] at h
  rcases h with ⟨rfl, rfl⟩ | ⟨rfl, rfl⟩
  · exact ⟨exec_factory s, by rw [factoryOps_length]; omega⟩
  · exact ⟨exec_zero s, by rw [zeroOps_length]; omega⟩

/-- Settles O45: the run of the program, whose record is not empty since it ran to its end or met a TransportError. -/
theorem bulkStopsAtTheFirstTransportError : Obligations.BulkStopsAtTheFirstTransportError := by
  intro i ops h s
  obtain ⟨exec_eq, nonempty⟩ := exec_bulk h s
  rw [exec_eq]
  refine ⟨fun answered => ⟨_, conduct_answered answered⟩, fun t ht => ?_⟩
  obtain ⟨-, rfl⟩ := conduct_next ht
  obtain ⟨events, order, result, -⟩ := runOps_frame ops s
  obtain ⟨new, run⟩ := exists_bulkRun ops s
  exact ⟨new, run.trace, run.length_pos nonempty, run.requests, run.shadow, run.earlier, run.replies, events, order,
    result, run.ending⟩

end Sys2Proof.Machine

/-! ## The meter snapshot (spec/43_meter_decoder.md R195-R199)

The three blocks of a snapshot, read as one sequence of bytes in the order input, DAW, mixer, have the 32 channels in
the order of the entries: entry `j` is channel `j` of the whole, its bytes `2j` and `2j + 1` (`snapshotSample_eq`). -/

namespace Sys2Proof.Machine

section

variable {sIn sDaw sMix : List Byte}

/-- The blocks have the lengths that R196 asks for. -/
structure RightLengths (sIn sDaw sMix : List Byte) : Prop where
  input : sIn.length = 36
  daw : sDaw.length = 12
  mixer : sMix.length = 16

/-- The decoder delivers a snapshot exactly from blocks of the right lengths, and then every lane is produced. -/
theorem decodeMeterSnapshot_eq_some_iff {v : Vector Dword 32} :
    decodeMeterSnapshot sIn sDaw sMix = some v ↔
      RightLengths sIn sDaw sMix ∧ ∀ j : Fin 32, v.get j = meterSampleToDb (snapshotSample sIn sDaw sMix j) := by
  unfold decodeMeterSnapshot
  constructor
  · intro h
    split at h
    case isTrue lengths =>
      obtain ⟨input, daw, mixer⟩ := lengths
      obtain rfl := Option.some.inj h
      exact ⟨⟨input, daw, mixer⟩, fun j => by simp [Vector.get_eq_getElem]⟩
    case isFalse => cases h
  · rintro ⟨⟨input, daw, mixer⟩, lanes⟩
    rw [if_pos ⟨input, daw, mixer⟩]
    exact congrArg some (eq_of_get_eq fun j => by simp [Vector.get_eq_getElem, ← lanes j])

theorem RightLengths.exists_snapshot (h : RightLengths sIn sDaw sMix) :
    ∃ v, decodeMeterSnapshot sIn sDaw sMix = some v :=
  ⟨_, if_pos ⟨h.input, h.daw, h.mixer⟩⟩

/-! The block of each entry (R190). -/

theorem snapshotSample_input {n : Nat} (h : n < 18) : snapshotSample sIn sDaw sMix n = channelSample sIn n := if_pos h

theorem snapshotSample_daw {n : Nat} (h : n < 6) : snapshotSample sIn sDaw sMix (18 + n) = channelSample sDaw n := by
  rw [snapshotSample, if_neg (by omega), if_pos (by omega), Nat.add_sub_cancel_left]

theorem snapshotSample_mixer (n : Nat) : snapshotSample sIn sDaw sMix (24 + n) = channelSample sMix n := by
  rw [snapshotSample, if_neg (by omega), if_neg (by omega), Nat.add_sub_cancel_left]

/-! The channels of blocks that follow each other. -/

theorem channelSample_eq (s : List Byte) (n : Nat) :
    channelSample s n = s[2 * n + 1]?.getD 0 ++ s[2 * n]?.getD 0 := by
  rw [channelSample, List.getD_eq_getElem?_getD, List.getD_eq_getElem?_getD]

theorem channelSample_append_left {s : List Byte} {n : Nat} (h : 2 * n + 1 < s.length) (t : List Byte) :
    channelSample (s ++ t) n = channelSample s n := by
  rw [channelSample, channelSample, List.getD_append _ _ _ _ h, List.getD_append _ _ _ _ (by omega)]

theorem channelSample_append_right {s : List Byte} {k n : Nat} (hs : s.length = 2 * k) (h : k ≤ n) (t : List Byte) :
    channelSample (s ++ t) n = channelSample t (n - k) := by
  rw [channelSample, channelSample, List.getD_append_right _ _ _ _ (by omega),
    List.getD_append_right _ _ _ _ (by omega), hs, show 2 * n + 1 - 2 * k = 2 * (n - k) + 1 by omega, Nat.mul_sub]

/-- Entry `j` is channel `j` of the three blocks one after the other (R197). -/
theorem snapshotSample_eq (h : RightLengths sIn sDaw sMix) (j : Nat) :
    snapshotSample sIn sDaw sMix j = channelSample (sIn ++ sDaw ++ sMix) j := by
  obtain ⟨input, daw, -⟩ := h
  have both : (sIn ++ sDaw).length = 2 * 24 := by rw [List.length_append, input, daw]
  unfold snapshotSample
  split
  case isTrue first =>
    rw [List.append_assoc, channelSample_append_left (by omega)]
  case isFalse notFirst =>
    split
    case isTrue second =>
      rw [channelSample_append_left (by omega), channelSample_append_right (k := 18) input (by omega)]
    case isFalse third => rw [channelSample_append_right both (by omega)]

/-- A channel depends only on its own two bytes (R195). -/
theorem channelSample_congr {s t : List Byte} {n : Nat} (low : s[2 * n]? = t[2 * n]?)
    (high : s[2 * n + 1]? = t[2 * n + 1]?) : channelSample s n = channelSample t n := by
  rw [channelSample_eq, channelSample_eq, low, high]

theorem channelSample_replicate_zero (k n : Nat) : channelSample (List.replicate k 0) n = 0 := by
  rw [channelSample_eq, List.getElem?_getD_replicate_default_eq, List.getElem?_getD_replicate_default_eq]
  rfl

end

/-- Settles O51: entry `j` is the reading of channel `j` of the blocks one after the other, so of its two bytes. -/
theorem snapshotLanesAreIndependent : Obligations.SnapshotLanesAreIndependent := by
  intro sIn sDaw sMix sIn' sDaw' sMix' v v' h h' j low high
  obtain ⟨lengths, lanes⟩ := decodeMeterSnapshot_eq_some_iff.mp h
  obtain ⟨lengths', lanes'⟩ := decodeMeterSnapshot_eq_some_iff.mp h'
  rw [lanes, lanes', snapshotSample_eq lengths, snapshotSample_eq lengths', channelSample_congr low high]

end Sys2Proof.Machine

/-! ## How METERPOLL runs (spec/43_meter_decoder.md R192) -/

namespace Sys2Proof.Machine

section

variable {s t : State} {r : ControlRequest} {bytes sIn sDaw sMix : List Byte}

theorem readBlock_success (h : answerTo r s = .success bytes) (k : List Byte → State → State) :
    readBlock r s k = k bytes (logged r s) := by
  rw [readBlock, emit_answer, h, emit_eq_logged]

theorem readBlock_transportError (h : answerTo r s = .transportError) (k : List Byte → State → State) :
    readBlock r s k = errorEnd 6 (logged r s) := by
  rw [readBlock, emit_answer, h, emit_eq_logged, raise_eq_errorEnd]
  rfl

/-- METERPOLL with its requests answered: the reads in the order input, DAW, mixer, then the decoder. -/
theorem exec_meterpoll (h : Answered 3 s) :
    exec .meterpoll s = .next (readBlock readIn s fun sIn s1 => readBlock readDaw s1 fun sDaw s2 =>
      readBlock readMix s2 fun sMix s3 => finishSnapshot (decodeMeterSnapshot sIn sDaw sMix) s3) :=
  conduct_answered h

/-- METERPOLL whose three reads returned bytes ends as the decoder says. -/
theorem MeterReads.exec_eq (h : MeterReads s sIn sDaw sMix t) :
    exec .meterpoll s = .next (finishSnapshot (decodeMeterSnapshot sIn sDaw sMix) t) := by
  obtain ⟨answered, input, daw, mixer, rfl⟩ := h
  rw [exec_meterpoll answered, readBlock_success input, readBlock_success daw, readBlock_success mixer]

/-- With blocks of the right lengths METERPOLL delivers the reading of every entry's sample. -/
theorem MeterReads.exists_snapshot (h : MeterReads s sIn sDaw sMix t) (lengths : RightLengths sIn sDaw sMix) :
    ∃ snap, exec .meterpoll s = .next (okEnd (.snapshot snap) t) ∧
      ∀ j : Fin 32, snap.get j = meterSampleToDb (snapshotSample sIn sDaw sMix j) := by
  obtain ⟨snap, decoded⟩ := lengths.exists_snapshot
  obtain ⟨-, lanes⟩ := decodeMeterSnapshot_eq_some_iff.mp decoded
  refine ⟨snap, ?_, lanes⟩
  rw [h.exec_eq, decoded, finishSnapshot, finish_eq_okEnd]

end

/-- Settles O47: the blocks of the entries are 0 to 17, 18 to 23 and 24 to 31. -/
theorem meterpollDeliversTheSnapshot : Obligations.MeterpollDeliversTheSnapshot := by
  intro s t sIn sDaw sMix reads input daw mixer
  obtain ⟨snap, run, lanes⟩ := reads.exists_snapshot ⟨input, daw, mixer⟩
  refine ⟨snap, run, fun n => ?_, fun n => ?_, fun n => ?_⟩
  · exact (lanes ⟨n, by omega⟩).trans (congrArg meterSampleToDb (snapshotSample_input n.isLt))
  · exact (lanes ⟨18 + n, by omega⟩).trans (congrArg meterSampleToDb (snapshotSample_daw n.isLt))
  · exact (lanes ⟨24 + n, by omega⟩).trans (congrArg meterSampleToDb (snapshotSample_mixer n))

/-- Settles O49: each read that fails is the last request recorded. -/
theorem meterpollStopsAtTheFirstTransportError : Obligations.MeterpollStopsAtTheFirstTransportError := by
  intro s sIn sDaw answered
  rw [exec_meterpoll answered]
  refine ⟨fun failed => ?_, fun input failed => ?_, fun input daw failed => ?_⟩
  · rw [readBlock_transportError failed]
  · rw [readBlock_success input, readBlock_transportError failed]
  · rw [readBlock_success input, readBlock_success daw, readBlock_transportError failed]

/-- Settles O50: every channel of zero bytes is the sample 0, whose reading is minus infinity. -/
theorem allZeroBlocksReadMinusInfinity : Obligations.AllZeroBlocksReadMinusInfinity := by
  intro s t reads
  have lengths : RightLengths (List.replicate 36 0) (List.replicate 12 0) (List.replicate 16 0) := by
    constructor <;> exact List.length_replicate
  obtain ⟨snap, run, lanes⟩ := reads.exists_snapshot lengths
  refine ⟨snap, run, fun j => ?_⟩
  rw [lanes, snapshotSample_eq lengths, List.replicate_append_replicate, List.replicate_append_replicate,
    channelSample_replicate_zero]
  rfl

end Sys2Proof.Machine

/-! ## The idle block, and words of no row (spec/60_exceptions.md R212, R228) -/

namespace Sys2Proof.Machine

theorem fetch_idle {s : State} (ho : s.order = none) (he : s.events = []) : fetch s = (.idle, s) := by
  simp only [fetch, ho, he]

/-- Settles O4: a step at which nothing is taken answers the same state (log 16). -/
theorem idleBlockHoldsItsState : Obligations.IdleBlockHoldsItsState := by
  intro s ho he
  rw [step, fetch_idle ho he]

/-- A word that decodes is one of a row of the table (R75, R77). -/
theorem decodeCommand_error_of_no_row {c : Word} {d : Dword} (h : ∀ row ∈ commandRows, c &&& row.1 ≠ row.2) :
    ∃ e, decodeCommand ⟨c, d⟩ = .error e := by
  obtain ⟨byRow, -⟩ := commandDecodesExactlyByItsRow c d
  cases hd : decodeCommand ⟨c, d⟩ with
  | error e => exact ⟨e, rfl⟩
  | ok i =>
    obtain ⟨mem, matched⟩ := byRow i hd
    exact absurd matched (h i.row mem)

/-- Settles O5: a word of no row does not decode, and the step raises ILLEGAL_CMD. -/
theorem wordOfNoRowEndsWithIllegalCmd : Obligations.WordOfNoRowEndsWithIllegalCmd := by
  intro s c d rest ho he noRow
  obtain ⟨e, hd⟩ := decodeCommand_error_of_no_row (d := d) noRow
  rw [step, fetch_command ho he, decode, hd]
  exact congrArg Host.Outcome.next (raise_eq_errorEnd .illegalCmd _)

end Sys2Proof.Machine

/-! ## The checks of a command that fail (spec/60_exceptions.md R213-R215)

A check that fails ends the command there with its code; `require` is the one way to check. -/

namespace Sys2Proof.Machine

section

variable {α β : Type} {x : Option α} {y : Option β} {e : Status} {s : State}

theorem require_eq_errorEnd {k : α → StepOutcome} (h : x = none) :
    require x e s k = .next (errorEnd (statusCode e) s) := by
  rw [h, require_none, raise_eq_errorEnd]

/-- Of two checks that raise the same code, it makes no difference which one fails. -/
theorem require_require_eq_errorEnd {k : α → β → StepOutcome} (h : x = none ∨ y = none) :
    require x e s (fun v => require y e s (k v)) = .next (errorEnd (statusCode e) s) := by
  cases x with
  | none => exact require_eq_errorEnd rfl
  | some v =>
    have hy : y = none := h.resolve_left (Option.some_ne_none v)
    rw [require_some, require_eq_errorEnd hy]

end

/-- Settles O32: an operand byte outside its domain names nothing, and the check of the first or of the second operand
fails. -/
theorem operandOutsideDomainEndsWithRangeErr : Obligations.OperandOutsideDomainEndsWithRangeErr := by
  refine fun s a b d => ⟨fun h => ?setimp, fun h => ?setclk, fun h => ?setmute, fun h => ?setatt, fun h => ?setsrc,
    fun h => ?setgain, fun h => ?setroute, fun h => ?getMsrc, fun h => ?getMgain, fun h => ?getRoute, fun h => ?getMute,
    fun h => ?getAtt, fun h => ?getImp⟩
  case setimp => exact require_require_eq_errorEnd (h.imp below?_eq_none.mpr impMode?_eq_none.mpr)
  case setclk => exact require_eq_errorEnd (clock?_eq_none.mpr h)
  case setmute => exact require_require_eq_errorEnd (h.imp below?_eq_none.mpr muteBit?_eq_none.mpr)
  case setsrc => exact require_require_eq_errorEnd (h.imp below?_eq_none.mpr source?_eq_none.mpr)
  case setgain | getMgain => exact require_require_eq_errorEnd (h.imp below?_eq_none.mpr below?_eq_none.mpr)
  case setroute => exact require_require_eq_errorEnd (h.imp below?_eq_none.mpr mixBus?_eq_none.mpr)
  case setatt | getMsrc | getRoute | getMute | getAtt | getImp => exact require_eq_errorEnd (below?_eq_none.mpr h)

theorem dbOperand?_of_nanWord {d : Dword} (h : NaNWord d) : dbOperand? d = none := by
  rw [dbOperand?, (exactValue_eq_none_iff d).mpr h, Option.map_none]

/-- Settles O33: the range checks pass on the bytes of indices, and a NaN is no operand. -/
theorem nanOperandEndsWithNanErr : Obligations.NanOperandEndsWithNanErr := by
  intro s d k i b nan
  have failed {f : DbOperand → StepOutcome} : require (dbOperand? d) .nanErr s f = .next (errorEnd 3 s) :=
    require_eq_errorEnd (dbOperand?_of_nanWord nan)
  refine ⟨?setatt, ?setgain, failed, failed⟩
  case setatt => rw [exec, execSetatt, outputBus?_ofNat, require_some, failed]
  case setgain => rw [exec, execSetgain, matrixInput?_ofNat, require_some, matrixBus?_ofNat, require_some, failed]

/-- Settles O34: a switch that was never written holds no value. -/
theorem unsetSwitchEndsWithUnsetErr : Obligations.UnsetSwitchEndsWithUnsetErr := by
  refine fun s => ⟨fun c unset => ?_, fun unset => ?_⟩
  · have imp : s.imp.get c = none := Option.not_isSome_iff_eq_none.mp (Bool.eq_false_iff.mp unset)
    rw [exec, execGetImp, channel?_ofNat, require_some]
    exact require_eq_errorEnd imp
  · have clk : s.clk = none := Option.not_isSome_iff_eq_none.mp (Bool.eq_false_iff.mp unset)
    exact require_eq_errorEnd clk

/-- Settles O48: the decoder delivers nothing from a block of the wrong length. -/
theorem wrongBlockLengthEndsWithFormatErr : Obligations.WrongBlockLengthEndsWithFormatErr := by
  intro s t sIn sDaw sMix reads wrong
  rw [reads.exec_eq, decodeMeterSnapshot, if_neg wrong]
  exact congrArg Host.Outcome.next (raise_eq_errorEnd .formatErr t)

end Sys2Proof.Machine

/-! ## Errors are precise (spec/60_exceptions.md R219) -/

namespace Sys2Proof.Machine

section

variable {s : State} {o : StepOutcome}

/-- A command whose check failed did nothing but end with the code. -/
theorem CommandShape.errorEnd_of_checkFailed (h : CommandShape s o) :
    Ensures (fun t => CheckFailed t → t = errorEnd t.status.toNat s) o := by
  cases h with
  | error e =>
    refine .next fun _ => ?_
    rw [raise_status, statusByte_toNat, raise_eq_errorEnd]
  | answer r => exact .next fun failed => absurd failed (not_checkFailed (finish_status ..) (by decide))
  | ops ops => exact .conduct fun failed => absurd failed (not_checkFailed_runOps ops s)
  | save => exact .conduct fun failed => absurd failed (not_checkFailed_settle _)
  | poll => exact .conduct fun failed => absurd failed (not_checkFailed_pollMeters s)

theorem SameShadow.pollMeters (s : State) : SameShadow s (pollMeters s) :=
  .of_ended (.pollMeters (fun r _ hu => hu.trans (.of_emit r)) .rfl')

/-- Only a command that ended with OK or TRANSPORT_ERR wrote a shadow register. -/
theorem CommandShape.sameShadow_or_status (h : CommandShape s o) :
    Ensures (fun t => SameShadow s t ∨ t.status = 0 ∨ t.status = 6) o := by
  cases h with
  | error e => exact .next (.inl (.of_raise e))
  | answer r => exact .next (.inl (.of_finish r))
  | ops ops =>
    obtain ⟨-, -, -, ⟨ok, -⟩ | ⟨error, -⟩⟩ := runOps_frame ops s
    · exact .conduct (.inr (.inl ok))
    · exact .conduct (.inr (.inr error))
  | save => exact .conduct (.inl (.settle (.of_emit _)))
  | poll => exact .conduct (.inl (.pollMeters s))

end

/-- Settles O35: by the five shapes of a command's step. -/
theorem errorsArePrecise : Obligations.ErrorsArePrecise := by
  intro i s t command h
  have shape := exec_command_shape i s command
  refine ⟨fun lo hi => ?_, fun lo hi => shape.errorEnd_of_checkFailed t h ⟨lo, hi⟩⟩
  rcases shape.sameShadow_or_status t h with same | ok | transportErr
  · exact same
  · rw [ok] at lo
    exact absurd lo (by decide)
  · rw [transportErr] at hi
    exact absurd hi (by decide)

end Sys2Proof.Machine

/-! ## What stops a command (spec/60_exceptions.md R237, spec/70_reset_and_hazards.md R241) -/

namespace Sys2Proof.Machine

/-- After successes alone the command comes to this reply. -/
def Meets (s : State) (r : Reply) : Prop := ∃ k, AllSucceed k s ∧ s.replies[k]? = some r

/-- The step went on, or the host stopped it. -/
inductive StoppedByHostOnly (s : State) : StepOutcome → Prop
  | next (t : State) : StoppedByHostOnly s (.next t)
  | silence (h : Meets s .silence) : StoppedByHostOnly s (.fault .unanswered)
  | reset (h : Meets s .reset) : StoppedByHostOnly s (.refused .resetInsideCommand)

section

variable {s : State} {o : StepOutcome}

theorem meets_of_stopsWithin {n : Nat} {stop : Stop} (h : stopsWithin n s.replies = some stop) :
    Meets s (stopReply stop) := by
  obtain ⟨k, -, successes, reply⟩ := stopsWithin_some h
  exact ⟨k, successes, reply⟩

theorem StoppedByHostOnly.conduct (n : Nat) (s done : State) : StoppedByHostOnly s (conduct n s done) := by
  rw [Machine.conduct]
  split
  next h => exact .silence (meets_of_stopsWithin h)
  next h => exact .reset (meets_of_stopsWithin h)
  next => exact .next done

theorem CommandShape.stoppedByHostOnly (h : CommandShape s o) : StoppedByHostOnly s o := by
  cases h with
  | error | answer => exact .next _
  | ops | save | poll => exact .conduct _ _ _

/-- A request kind can be refused for its fields too (log 10). -/
theorem stoppedByHostOnly_issue (allowed : Bool) (r : ControlRequest) (s : State) :
    StoppedByHostOnly s (issue allowed r s) ∨ issue allowed r s = .refused .outsideAddressMap := by
  cases allowed with
  | true => exact .inl (.conduct _ _ _)
  | false => exact .inr rfl

theorem exec_stoppedByHostOnly (i : Instr) (s : State) :
    StoppedByHostOnly s (exec i s) ∨ isCommand i = false ∧ exec i s = .refused .outsideAddressMap := by
  cases hi : isCommand i with
  | true => exact .inl (exec_command_shape i s hi).stoppedByHostOnly
  | false =>
    obtain ⟨r, run⟩ := exec_request_shape i s hi
    rw [run]
    exact (stoppedByHostOnly_issue _ r s).imp_right fun h => ⟨rfl, h⟩

end

/-- Settles O38: by the way the step ends. -/
theorem onlyTheHostStopsACommand : Obligations.OnlyTheHostStopsACommand := by
  intro i s
  have stopped := exec_stoppedByHostOnly i s
  generalize exec i s = o at stopped ⊢
  rcases stopped with stopped | ⟨order, rfl⟩
  · cases stopped with
    | next t => exact ⟨nofun, nofun, fun _ => .inl ⟨t, rfl⟩⟩
    | silence h => exact ⟨fun _ => h, nofun, fun _ => .inr (.inl rfl)⟩
    | reset h => exact ⟨nofun, fun _ => h, fun _ => .inr (.inr rfl)⟩
  · exact ⟨nofun, nofun, fun command => nomatch order.symm.trans command⟩

end Sys2Proof.Machine

/-! ## A step under other replies (spec/60_exceptions.md R237)

The step from a state and the step from the same state under other replies are followed side by side: until the first
request they go the same way, and without a request they end alike. -/

namespace Sys2Proof.Machine

/-- The steps from `s` and from `s` under other replies: both without a request, so that they end alike; both with a
request; or both refused. -/
inductive Hears (s : State) (replies : List Reply) : StepOutcome → StepOutcome → Prop
  | nothing {t : State} (h : t.trace = s.trace) : Hears s replies (.next t) (.next { t with replies := replies })
  | request {n : Nat} {done done' : State} (hn : 1 ≤ n) (h : done.trace ≠ s.trace) :
    Hears s replies (conduct n s done) (conduct n { s with replies := replies } done')
  | refused (r : Refusal) : Hears s replies (.refused r) (.refused r)

section

variable {s t : State} {replies : List Reply} {program : List ControlRequest}

theorem SamePorts.trace_length {r : ControlRequest} (h : SamePorts (emit r s).2 t) :
    t.trace.length = s.trace.length + 1 := by
  rw [h.trace, emit_trace, List.length_append, List.length_singleton]

theorem Follows.trace_length (h : Follows program s t) :
    s.trace.length ≤ t.trace.length ∧ (program ≠ [] → s.trace.length < t.trace.length) := by
  induction h with
  | done h => exact ⟨h.trace ▸ le_rfl, fun ne => absurd rfl ne⟩
  | failed _ sent =>
    have one := sent.trace_length
    omega
  | next _ sent _ ih =>
    have one := sent.trace_length
    omega

/-- A program that is not empty has sent its first request. -/
theorem Follows.trace_ne (h : Follows program s t) (ne : program ≠ []) : t.trace ≠ s.trace := fun same => by
  obtain ⟨-, longer⟩ := h.trace_length
  exact absurd (same ▸ longer ne) (lt_irrefl _)

theorem Hears.require {α : Type} {x : Option α} {e : Status} {k k' : α → StepOutcome}
    (hk : ∀ v, Hears s replies (k v) (k' v)) :
    Hears s replies (require x e s k) (require x e { s with replies := replies } k') := by
  cases x with
  | none => exact .nothing rfl
  | some v => exact hk v

theorem Hears.answer (r : Result) :
    Hears s replies (.next (finish r s)) (.next (finish r { s with replies := replies })) := .nothing rfl

theorem Hears.ops {ops : List SetOp} (hops : 1 ≤ ops.length) :
    Hears s replies (conductOps ops s) (conductOps ops { s with replies := replies }) := by
  have ne : ops.map requestOf ≠ [] := by
    rw [ne_eq, List.map_eq_nil_iff]
    exact List.ne_nil_of_length_pos hops
  exact .request hops ((Follows.runOps ops s).trace_ne ne)

theorem Hears.one (op : SetOp) : Hears s replies (conductOps [op] s) (conductOps [op] { s with replies := replies }) :=
  .ops le_rfl

theorem Hears.issue (allowed : Bool) (r : ControlRequest) :
    Hears s replies (issue allowed r s) (issue allowed r { s with replies := replies }) := by
  cases allowed with
  | true => exact .request le_rfl ((Follows.one (r := r) ⟨rfl, rfl⟩).trace_ne (List.cons_ne_nil _ _))
  | false => exact .refused _

end

/-- No check of a command looks at the replies. -/
theorem exec_command_hears {i : Instr} (hi : isCommand i = true) (s : State) (replies : List Reply) :
    Hears s replies (exec i s) (exec i { s with replies := replies }) := by
  cases i
  case setimp | setmute | setatt | setsrc | setroute => exact .require fun _ => .require fun _ => .one _
  case setclk => exact .require fun _ => .one _
  case setgain => exact .require fun _ => .require fun _ => .require fun _ => .one _
  case save => exact .request le_rfl ((Follows.one (.settle (emit saveRequest s))).trace_ne (List.cons_ne_nil _ _))
  case factory => exact .ops (ops := factoryOps) (by rw [factoryOps_length]; omega)
  case zero => exact .ops (ops := zeroOps) (by rw [zeroOps_length]; omega)
  case meterpoll => exact .request (by omega) ((Follows.pollMeters s).trace_ne (List.cons_ne_nil _ _))
  case cvtmeter => exact .answer _
  case cvtatt | cvtgain | getMsrc | getRoute | getMute | getAtt | getClk => exact .require fun _ => .answer _
  case getMgain | getImp => exact .require fun _ => .require fun _ => .answer _
  all_goals simp [isCommand, encode] at hi

theorem exec_hears (i : Instr) (s : State) (replies : List Reply) :
    Hears s replies (exec i s) (exec i { s with replies := replies }) := by
  cases hi : isCommand i with
  | true => exact exec_command_hears hi s replies
  | false =>
    obtain ⟨r, run⟩ := exec_request_eq_issue hi
    rw [run, run]
    exact .issue _ r

section

variable {s t : State} {replies : List Reply} {o o' : StepOutcome}

/-- A step that goes on and has sent a request is one that waits for its first answer. -/
theorem Hears.of_sent (h : Hears s replies o o') (ho : o = .next t) (sent : t.trace ≠ s.trace) :
    ∃ n done, o' = conduct (n + 1) { s with replies := replies } done := by
  cases h with
  | nothing same =>
    obtain rfl := Host.Outcome.next.inj ho
    exact absurd same sent
  | request hn =>
    obtain ⟨n, rfl⟩ := Nat.exists_eq_add_of_le' hn
    exact ⟨n, _, rfl⟩
  | refused => cases ho

/-- A step that has sent no request ends alike under any replies. -/
theorem Hears.of_not_sent (h : Hears s replies o o') (ho : o = .next t) (same : t.trace = s.trace) :
    o' = .next { t with replies := replies } := by
  cases h with
  | nothing =>
    obtain rfl := Host.Outcome.next.inj ho
    rfl
  | request _ sent =>
    obtain ⟨-, rfl⟩ := conduct_next ho
    exact absurd same sent
  | refused => cases ho

end

/-- Settles O37: by following the two steps side by side. -/
theorem unansweredRequestStopsTheStep : Obligations.UnansweredRequestStopsTheStep := by
  refine fun i s t _ h => ⟨fun sent rest => ⟨?silence, ?reset⟩, fun same replies => ?_⟩
  case silence =>
    obtain ⟨n, done, run⟩ := (exec_hears i s (.silence :: rest)).of_sent h sent
    rw [run, conduct_fault_iff]
    exact stopsWithin_silence n rest
  case reset =>
    obtain ⟨n, done, run⟩ := (exec_hears i s (.reset :: rest)).of_sent h sent
    rw [run, conduct_refused_iff]
    exact ⟨stopsWithin_reset n rest, rfl⟩
  exact (exec_hears i s replies).of_not_sent h same

end Sys2Proof.Machine

/-! ## What SETSRC and SETGAIN leave to each other (spec/10_state.md R26, spec/70_reset_and_hazards.md R249) -/

namespace Sys2Proof.Machine

/-- A part of the shadow registers that no commit of an instruction writes, the instruction leaves as it is, whatever
its operands are and however it ends. -/
theorem exec_keeps_of_commits {β : Type} {reg : State → β} {i : Instr}
    (shadow : ∀ u v, SameShadow u v → reg v = reg u)
    (commits : ∀ op, Commits i op → ∀ u, reg (commit op u) = reg u) (s : State) :
    Ensures (fun t => reg t = reg s) (exec i s) := by
  refine exec_ensures (fun r u hu => ?request) (fun op hop u hu => ?commit) (fun t ht => ?ending) rfl
  case request => exact (shadow u _ (.of_emit r)).trans hu
  case commit => exact (commits op hop u).trans hu
  case ending =>
    cases ht with
    | ok r hu => exact (shadow _ _ (.of_finish r)).trans hu
    | error e _ hu => exact (shadow _ _ (.of_raise e)).trans hu

theorem exec_setsrc_mgain (a b : Byte) (s : State) :
    Ensures (fun t => t.mgain = s.mgain) (exec (.setsrc a b) s) := by
  refine exec_keeps_of_commits (reg := State.mgain) (fun _ _ same => same.mgain) (fun op hop u => ?_) s
  cases hop with
  | setsrc => rw [commit_src_mgain]

theorem exec_setgain_msrc (a b : Byte) (d : Dword) (s : State) :
    Ensures (fun t => t.msrc = s.msrc) (exec (.setgain a b d) s) := by
  refine exec_keeps_of_commits (reg := State.msrc) (fun _ _ same => same.msrc) (fun op hop u => ?_) s
  cases hop with
  | setgain => rw [commit_gain_msrc]

/-- Settles O42: SETSRC commits a source alone, and SETGAIN a gain alone. -/
theorem sourcesAndGainsAreIndependent : Obligations.SourcesAndGainsAreIndependent := fun s t a b d =>
  ⟨exec_setsrc_mgain a b s t, exec_setgain_msrc a b d s t⟩

end Sys2Proof.Machine

/-! ## Reset between commands (spec/70_reset_and_hazards.md R240) -/

namespace Sys2Proof.Machine

theorem fetch_reset {s : State} {rest : List HostEvent} (ho : s.order = none) (he : s.events = .reset :: rest) :
    fetch s = (.reset, { s with events := rest }) := by
  simp only [fetch, ho, he]

theorem step_reset {s : State} {rest : List HostEvent} (ho : s.order = none) (he : s.events = .reset :: rest) :
    step s = .next (resetBlock { s with events := rest }) := by
  rw [step, fetch_reset ho he]

/-! The entries of the registers at reset. -/

theorem reset_msrc_get (i : Fin 18) : State.reset.msrc.get i = .off := Vector.get_replicate ..

theorem reset_mgain_get (i : Fin 18) (b : Fin 6) : (State.reset.mgain.get i).get b = 0xFFF0000000000000 := by
  rw [State.reset, Vector.get_replicate, Vector.get_replicate]

theorem reset_route_get (d : Fin 6) : State.reset.route.get d = .source .off := Vector.get_replicate ..

theorem reset_mute_get (k : Fin 5) : State.reset.mute.get k = false := Vector.get_replicate ..

theorem reset_att_get (k : Fin 5) : State.reset.att.get k = 0x0000000000000000 := Vector.get_replicate ..

theorem reset_imp_get (c : Fin 2) : State.reset.imp.get c = none := Vector.get_replicate ..

/-- The elements of the state tuple of R20 hold their values at reset. -/
structure AtReset (u : State) : Prop where
  shadow : SameShadow State.reset u
  status : u.status = 0
  errseen : u.errseen = 0x00

theorem atReset_reset : AtReset State.reset := ⟨.rfl', rfl, rfl⟩

theorem atReset_resetBlock (s : State) : AtReset (resetBlock s) :=
  { atReset_reset with shadow := { atReset_reset.shadow with } }

/-- Settles O1: the step leaves the block as `resetBlock` does, and the record of requests is not the block's. -/
theorem resetSetsEveryElement : Obligations.ResetSetsEveryElement := by
  intro s rest ho he
  refine ⟨_, step_reset ho he, resetBlock_trace _, fun u hu => ?_⟩
  have atReset : AtReset u := by
    rcases List.mem_pair.mp hu with rfl | rfl
    · exact atReset_resetBlock _
    · exact atReset_reset
  obtain ⟨⟨msrc, mgain, route, mute, att, imp, clk⟩, status, errseen⟩ := atReset
  have unset (c : Fin 2) : u.imp.get c = none := by rw [imp, reset_imp_get]
  rw [State.clkValid, msrc, mgain, route, mute, att, clk]
  exact ⟨reset_msrc_get, reset_mgain_get, reset_route_get, reset_mute_get, reset_att_get,
    fun c => ⟨congrArg Option.isSome (unset c), unset c⟩, rfl, rfl, status, errseen⟩

end Sys2Proof.Machine
